-- ==== Sys2Proof/Word.lean ====
section
/-! DEFINITION. The word types of the Huffman core (spec 00_scope.md R4 to R9): every value is unsigned,
bit 0 is the least significant bit. -/

namespace Sys2Proof

/-- A byte of a stream, of the writer or of the reader; also a byte value of the alphabet (R4). -/
abbrev Byte := BitVec 8

/-- A 9-bit node handle (R6, R90). Handles 0 to 510 name nodes; 511 names none. -/
abbrev Handle := BitVec 9

/-- A frequency of `FREQ_W = 32` bits (R7). -/
abbrev Freq := BitVec 32

/-- A 16-bit command word (R8, R60). -/
abbrev CmdWord := BitVec 16

/-- A 32-bit word of the register map, and a 32-bit code word (R8, R23, R32). -/
abbrev Word32 := BitVec 32

/-- A 12-bit word address of the register map (R8, R32). -/
abbrev RegAddr := BitVec 12

end Sys2Proof
end

