-- ==== Sys2Proof/Syntax.lean ====
section
/-! DEFINITION. The commands of the core: one constructor per row of spec/opcode_table.json (R62), and the
pseudo-instructions of R69 as the command sequences they stand for. -/

namespace Sys2Proof

/-- A command (30_encoding.md R62). `IMM8` is the only operand, of TRAIN and ENC (R61). -/
inductive Instr where
  /-- NOP, R80. -/
  | nop
  /-- CLEAR, R81. -/
  | clear
  /-- TRAIN `b`, R82. -/
  | train (b : Byte)
  /-- BUILD, R101. -/
  | build
  /-- ASSIGN, R110. -/
  | assign
  /-- ENC `b`, R122. -/
  | enc (b : Byte)
  /-- FLUSH, R123. -/
  | flush
  /-- DOPEN, R140. -/
  | dopen
  /-- DSYM, R142. -/
  | dsym
  deriving DecidableEq, Repr

namespace Pseudo

/-- R69 `TRAIN.STR "s"`: one TRAIN per byte, in order. -/
def trainStr (s : List Byte) : List Instr := s.map .train

/-- R69 `TRAIN.REP b, n`: `n` copies of `TRAIN b`. -/
def trainRep (b : Byte) (n : Nat) : List Instr := List.replicate n (.train b)

/-- R69 `ENC.STR "s"`: one ENC per byte, in order. -/
def encStr (s : List Byte) : List Instr := s.map .enc

/-- R69 `ENCODE "s"`: one whole write session. -/
def encode (s : List Byte) : List Instr := encStr s ++ [.flush]

/-- R69 `DSYM.N n`: `n` copies of `DSYM`. -/
def dsymN (n : Nat) : List Instr := List.replicate n .dsym

/-- R69 `SETUP "t"`: `CLEAR`, `TRAIN.STR "t"`, `BUILD`, `ASSIGN`. -/
def setup (t : List Byte) : List Instr := .clear :: (trainStr t ++ [.build, .assign])

end Pseudo

end Sys2Proof
end

