-- ==== Sys2Proof/WellFormed.lean ====
section
/-! DEFINITION. Which 16-bit words are legal encodings (30_encoding.md R60, R63, R66), written from the rules
and not from the decoder. A term of `Instr` is well formed by its type: its only operand is a byte, and every
byte value is a legal operand (R61). -/

namespace Sys2Proof

namespace CmdWord

/-- R60: bits [15:12]. -/
def op (w : CmdWord) : BitVec 4 := w.extractLsb' 12 4

/-- R60: bits [11:8], reserved, must be 0. -/
def rsv (w : CmdWord) : BitVec 4 := w.extractLsb' 8 4

/-- R60: bits [7:0]. -/
def imm8 (w : CmdWord) : Byte := w.extractLsb' 0 8

/-- R63, first check: the opcode is 0x0 to 0x8. -/
def opDefined (w : CmdWord) : Bool := decide ((op w).toNat ≤ 8)

/-- R63, second check: `RSV = 0`. -/
def rsvZero (w : CmdWord) : Bool := decide (rsv w = 0#4)

/-- R63, third check: `IMM8 = 0` unless the opcode is that of TRAIN or of ENC. -/
def immAllowed (w : CmdWord) : Bool := decide (imm8 w = 0#8 ∨ op w = 0x2#4 ∨ op w = 0x5#4)

/-- R63: a word is a legal encoding when it passes the three checks. -/
def legalEncoding (w : CmdWord) : Bool := opDefined w && rsvZero w && immAllowed w

end CmdWord

/-- Every command is well formed (R61: every byte value is a legal operand); each constructor is listed so that
a new one cannot be taken as well formed unseen. -/
def Instr.wellFormed : Instr → Bool
  | .nop => true
  | .clear => true
  | .train _ => true
  | .build => true
  | .assign => true
  | .enc _ => true
  | .flush => true
  | .dopen => true
  | .dsym => true

end Sys2Proof
end

