-- ==== Sys2Proof/Decode.lean ====
section
/-! DEFINITION. The decoder of command words (30_encoding.md R60 to R67) and the encoder. The decoder is total:
every 16-bit word is exactly one command of R62 or illegal (R63). -/

namespace Sys2Proof

/-- The command an opcode stands for when the word has no operand bits set, or `none` (R62). -/
def decodePlain (op : BitVec 4) : Option Instr :=
  match op.toNat with
  | 0 => some .nop
  | 1 => some .clear
  | 3 => some .build
  | 4 => some .assign
  | 6 => some .flush
  | 7 => some .dopen
  | 8 => some .dsym
  | _ => none

/-- R62, R63, R66: the command of a word; `none` for an illegal word (a reserved opcode, `RSV ≠ 0`, or `IMM8 ≠ 0`
on an opcode without an operand). -/
def decode (w : CmdWord) : Option Instr :=
  if CmdWord.rsv w = 0#4 then
    if CmdWord.op w = 0x2#4 then some (.train (CmdWord.imm8 w))
    else if CmdWord.op w = 0x5#4 then some (.enc (CmdWord.imm8 w))
    else if CmdWord.imm8 w = 0#8 then decodePlain (CmdWord.op w)
    else none
  else none

/-- R62: the opcode of a command. -/
def Instr.op : Instr → BitVec 4
  | .nop => 0x0#4
  | .clear => 0x1#4
  | .train _ => 0x2#4
  | .build => 0x3#4
  | .assign => 0x4#4
  | .enc _ => 0x5#4
  | .flush => 0x6#4
  | .dopen => 0x7#4
  | .dsym => 0x8#4

/-- R60, R61: the operand byte; 0 for a command without one. -/
def Instr.imm8 : Instr → Byte
  | .nop => 0#8
  | .clear => 0#8
  | .train b => b
  | .build => 0#8
  | .assign => 0#8
  | .enc b => b
  | .flush => 0#8
  | .dopen => 0#8
  | .dsym => 0#8

/-- R60: the word of a command, `OP`, then `RSV = 0`, then `IMM8`. -/
def encode (i : Instr) : CmdWord := i.op ++ 0#4 ++ i.imm8

/-- The command the decoder reads from a word numbered as spec/opcode_table.json numbers it. Every row has 16 bits
(R67); a word given with more is read by its low 16 bits when the rest is 0, and is no command otherwise. -/
def decodeTableWord (nbits w : Nat) : Option Instr :=
  if w % 2 ^ nbits < 2 ^ 16 then decode (BitVec.ofNat 16 (w % 2 ^ nbits)) else none

end Sys2Proof
end

