-- ==== Sys2Proof/Config.lean ====
section
/-! DEFINITION. The implementation parameters (00_scope.md R4 to R8; every value is fixed for this
hardware) and the free values of the elements the spec leaves unspecified (10_state.md R35, R36). -/

namespace Sys2Proof.Config

/-- R4: the number of byte values, hence of leaves. -/
def ALPHABET : Nat := 256

/-- R5: no code is longer than this. -/
def MAX_CODE_LEN : Nat := 32

/-- R6: 256 leaves and 255 internal nodes. -/
def NODES : Nat := 511

/-- R7: the greatest frequency, `2^32 - 1`. -/
def FREQ_MAX : Nat := 2 ^ 32 - 1

/-- R8, R136: the value a read past the end of the input loads. -/
def READ_FILL : Byte := 0x00#8

/-! ## Free values
Each is a draw the model does not fix (R36, D34; assumption log 1 and 2). The first argument is the number of the
draw (`State.DRAWS`), the second the index of the element. -/

/-- The value of `NFREQ[i]`, `i` in 256 to 510, after reset or CLEAR. -/
opaque freeNfreq : Nat → Nat → Freq

/-- The value of `NLEFT[i]`, after reset or CLEAR. -/
opaque freeNleft : Nat → Nat → Handle

/-- The value of `NRIGHT[i]`, after reset or CLEAR. -/
opaque freeNright : Nat → Nat → Handle

/-- The value of `HEAP[i]`, after reset or CLEAR. -/
opaque freeHeap : Nat → Nat → Handle

/-- The value of `CODE[i]`, after reset or CLEAR, and where an ASSIGN that faults did not reach it. -/
opaque freeCode : Nat → Nat → Word32

/-- The value of `LEN[i]`, after reset or CLEAR, and where an ASSIGN that faults did not reach it. -/
opaque freeLen : Nat → Nat → BitVec 6

/-- The value of `CUR_CMD` while no command is held (R16, R35, U3). -/
opaque freeCurCmd : Nat → CmdWord

end Sys2Proof.Config
end

