-- ==== Sys2Proof/Machine/State.lean ====
section
/-! DEFINITION. The state of the Huffman core and of its host (10_state.md, 20_memory.md), the reasons a step can
stop, and the state right after reset (R35). Field names are the spec's. -/

namespace Sys2Proof.Machine

/-- An item of the input stream (R44): a byte, or the end marker `End`. -/
inductive Token where
  | byte (b : Byte)
  | endMark
  deriving DecidableEq, Repr

/-- What the host does to the core, one action at a time (R12, R32, R44, R180): it writes a command word on the
command port, pushes a token onto `IN`, takes bytes off the front of `OUT`, reads a word of the register map, or
asserts reset. -/
inductive HostAction where
  | write (w : CmdWord)
  | push (t : Token)
  | drain (n : Nat)
  | read (a : RegAddr)
  | reset
  deriving DecidableEq, Repr

/-- The phase (R11), a 2-bit register all of whose values are named. -/
inductive Phase where
  | train
  | built
  | assigned
  | fault
  deriving DecidableEq, Repr

/-- The code of the first fault (R14), a 4-bit register; values 6 to 15 are never written (U7). -/
inductive ErrCode where
  | none
  | codeTooLong
  | countOverflow
  | weightOverflow
  | sequence
  | illegalCommand
  deriving DecidableEq, Repr

/-- The decoder state (R30, R139), one bit. -/
inductive DecoderState where
  | atRoot
  | descending
  deriving DecidableEq, Repr

/-- Why the model stops. No step from a state that a run reaches ends in either (R40, R192): the faults of the
hardware (60_exceptions.md) are next states in phase FAULT, not these. -/
inductive Fault where
  /-- Raised by ASSIGN and DSYM where a handle without child storage (a leaf, or 511) would be descended from: an access
  outside the node arena, which R40 says never happens. Safe: the model stops where the spec gives no access. -/
  | noSuchNode
  /-- Raised by ASSIGN and DSYM where the child links have a cycle and the walk of the pseudocode would never end; R192
  says every walk ends. Safe: the model stops where the pseudocode makes no next state. -/
  | endlessWalk
  deriving DecidableEq, Repr

/-- Why the model gives an instruction no meaning. No instruction of this model is refused. -/
inductive Refusal where
  /-- The instruction has no meaning yet. Safe: the model stops. No arm of `exec` raises it. -/
  | notModelled (mnemonic : String)
  deriving DecidableEq, Repr

/-- The state: the core's registers and arrays (10_state.md), the two streams, which belong to the host (R38), and
what the model adds to run host and core as one machine (`HOSTQ`, `HREADS`, `DRAWS`; assumption log 3, 4 and 1). -/
structure State where
  /-- R11. -/
  PHASE : Phase
  /-- R14. -/
  ERR : ErrCode
  /-- R15. -/
  ERRINFO : BitVec 16
  /-- R16. -/
  BUSY : Bool
  /-- R16: the word being executed while `BUSY = 1`. -/
  CUR_CMD : CmdWord
  /-- R17: the frequency of node `i` at index `i`, 0 to 510. -/
  NFREQ : Vector Freq 511
  /-- R18: the left child of node `256 + k` at index `k`. -/
  NLEFT : Vector Handle 255
  /-- R18: the right child of node `256 + k` at index `k`. -/
  NRIGHT : Vector Handle 255
  /-- R19. -/
  HEAP : Vector Handle 256
  /-- R20. -/
  HSIZE : BitVec 9
  /-- R21. -/
  MCOUNT : BitVec 9
  /-- R22. -/
  ROOT : Handle
  /-- R23. -/
  CODE : Vector Word32 256
  /-- R24. -/
  LEN : Vector (BitVec 6) 256
  /-- R25. -/
  WBUF : Byte
  /-- R25. -/
  WIDX : BitVec 3
  /-- R26. -/
  RBUF : Byte
  /-- R26. -/
  RIDX : BitVec 3
  /-- R27. -/
  EOF : Bool
  /-- R28. -/
  RD_OPEN : Bool
  /-- R29. -/
  END : Bool
  /-- R30. -/
  DSTATE : DecoderState
  /-- R30. -/
  DNODE : Handle
  /-- R31. -/
  DSYM : Byte
  /-- R31. -/
  DSYM_VALID : Bool
  /-- R44: the input stream, head first. -/
  IN : List Token
  /-- R44: the output stream, oldest byte first. -/
  OUT : List Byte
  /-- The model's own: the host's actions still to come, first one first (assumption log 3). -/
  HOSTQ : List HostAction
  /-- The model's own: what the host has read from the register map, oldest first (assumption log 4). -/
  HREADS : List (RegAddr × Word32)
  /-- The model's own: how many free draws were made (assumption log 1). -/
  DRAWS : Nat
  deriving DecidableEq, Repr

/-- The last `m` of the values `f 0`, ..., `f (n - 1)`, in order. -/
def lastOf {α : Type} (f : Nat → α) (n : Nat) : Nat → List α
  | 0 => []
  | m + 1 => f (n - (m + 1)) :: lastOf f n m

theorem length_lastOf {α : Type} (f : Nat → α) (n m : Nat) : (lastOf f n m).length = m := by
  induction m with
  | zero => rfl
  | succ m ih => simp [lastOf, ih]

/-- The array of `n` elements whose element `i` is `f i`. -/
def tabulate {α : Type} (n : Nat) (f : Nat → α) : Vector α n :=
  ⟨⟨lastOf f n n⟩, length_lastOf f n n⟩

/-- R35: the frequencies after reset, with draw number `n` for the nodes that are no leaf. -/
def resetNfreq (n : Nat) : Vector Freq 511 :=
  tabulate 511 fun i => if i < Config.ALPHABET then 0#32 else Config.freeNfreq n i

/-- R35: the machine right after reset. The elements R35 leaves unspecified hold draw number 0 (R36, assumption
log 1); the streams and the host's actions are empty (assumption log 3). -/
def State.reset : State where
  PHASE := .train
  ERR := .none
  ERRINFO := 0#16
  BUSY := false
  CUR_CMD := Config.freeCurCmd 0
  NFREQ := resetNfreq 0
  NLEFT := tabulate 255 (Config.freeNleft 0)
  NRIGHT := tabulate 255 (Config.freeNright 0)
  HEAP := tabulate 256 (Config.freeHeap 0)
  HSIZE := 0#9
  MCOUNT := 0#9
  ROOT := 0#9
  CODE := tabulate 256 (Config.freeCode 0)
  LEN := tabulate 256 (Config.freeLen 0)
  WBUF := 0#8
  WIDX := 0#3
  RBUF := 0#8
  RIDX := 0#3
  EOF := false
  RD_OPEN := false
  END := false
  DSTATE := .atRoot
  DNODE := 0#9
  DSYM := 0#8
  DSYM_VALID := false
  IN := []
  OUT := []
  HOSTQ := []
  HREADS := []
  DRAWS := 1

end Sys2Proof.Machine
end

