-- ==== Sys2Proof/Machine/Ops.lean ====
section
/-! DEFINITION. The operations the commands share: array elements (20_memory.md R40), node handles
(41_tree_builder.md R90), the streams (20_memory.md R44 to R47), the fault entry (60_exceptions.md R160) and what
leaves a fault (R167). -/

namespace Sys2Proof.Machine

/-- What one command or one step answers. -/
abbrev Outcome := Host.Outcome State Fault Refusal

/-! ## Array elements (R40) -/

/-- `A[i]`: element `i` of an array. No rule reads outside an array (R40); there the answer is `default`
(assumption log 5). -/
def readAt {α : Type} [Inhabited α] {n : Nat} (v : Vector α n) (i : Nat) : α := v[i]?.getD default

/-- `A[i] <- x`. No rule writes outside an array (R40); there nothing is written (assumption log 5). -/
def writeAt {α : Type} {n : Nat} (v : Vector α n) (i : Nat) (x : α) : Vector α n := v.setIfInBounds i x

/-! ## Nodes (R90) -/

/-- R90: `is_leaf(h) = (h < 256)`. -/
def isLeaf (h : Handle) : Bool := decide (h.toNat < Config.ALPHABET)

/-- Whether `h` names an internal node, 256 to 510 (R6, R90): only these have child storage (R18). -/
def isInternal (h : Handle) : Bool := decide (Config.ALPHABET ≤ h.toNat ∧ h.toNat < Config.NODES)

/-- `NFREQ[h]` (R17). -/
def State.nfreq (s : State) (h : Handle) : Freq := readAt s.NFREQ h.toNat

/-- `NLEFT[h]` for an internal node `h` (R18). -/
def State.nleft (s : State) (h : Handle) : Handle := readAt s.NLEFT (h.toNat - Config.ALPHABET)

/-- `NRIGHT[h]` for an internal node `h` (R18). -/
def State.nright (s : State) (h : Handle) : Handle := readAt s.NRIGHT (h.toNat - Config.ALPHABET)

/-- R141: the child an edge bit leads to, left on 0 and right on 1; `none` where the handle has no child storage
(R18). -/
def State.child? (s : State) (h : Handle) (bit : Bool) : Option Handle :=
  if isInternal h then some (if bit then s.nright h else s.nleft h) else none

/-! ## The streams (20_memory.md) -/

/-- R46 `OutWrite(b)`: append one byte to `OUT`; it never fails and never holds. -/
def outWrite (s : State) (b : Byte) : State := { s with OUT := s.OUT ++ [b] }

/-- R45, R136 `InRead()`: one read attempt; `none` is the hold on an empty `IN`. -/
def inRead (s : State) : Option (Byte × State) :=
  if s.EOF then some (Config.READ_FILL, s)
  else
    match s.IN with
    | [] => none
    | .byte b :: rest => some (b, { s with IN := rest })
    | .endMark :: rest => some (Config.READ_FILL, { s with IN := rest, EOF := true })

/-- R47 `hold`: nothing changes but `BUSY <- 1`; `CUR_CMD` is kept. -/
def hold (s : State) : State := { s with BUSY := true }

/-- R47: when the held command completes, `BUSY <- 0`. -/
def complete (s : State) : State := { s with BUSY := false }

/-! ## Faults (60_exceptions.md) -/

/-- R160 `raise Fault(code, info)`: the fault is recorded and the phase becomes FAULT; nothing is rolled back. -/
def raiseFault (s : State) (code : ErrCode) (info : BitVec 16) : State :=
  { s with ERR := code, ERRINFO := info, PHASE := .fault, BUSY := false }

/-- R35, R81, R180: every core register takes its reset value, and the elements without one a fresh draw (R36,
assumption log 1). This is CLEAR and the effect of reset, and the only way out of phase FAULT (R167). `IN` and `OUT`
do not change (R38). -/
def toReset (s : State) : State :=
  { s with
    PHASE := .train
    ERR := .none
    ERRINFO := 0#16
    BUSY := false
    CUR_CMD := Config.freeCurCmd s.DRAWS
    NFREQ := resetNfreq s.DRAWS
    NLEFT := tabulate 255 (Config.freeNleft s.DRAWS)
    NRIGHT := tabulate 255 (Config.freeNright s.DRAWS)
    HEAP := tabulate 256 (Config.freeHeap s.DRAWS)
    HSIZE := 0#9
    MCOUNT := 0#9
    ROOT := 0#9
    CODE := tabulate 256 (Config.freeCode s.DRAWS)
    LEN := tabulate 256 (Config.freeLen s.DRAWS)
    WBUF := 0#8
    WIDX := 0#3
    RBUF := 0#8
    RIDX := 0#3
    EOF := false
    RD_OPEN := false
    END := false
    DSTATE := .atRoot
    DNODE := 0#9
    DSYM := 0#8
    DSYM_VALID := false
    DRAWS := s.DRAWS + 1 }

end Sys2Proof.Machine
end

