-- ==== Sys2Proof/Machine/Flags.lean ====
section
/-! DEFINITION. The checks made before a command runs (30_encoding.md R64, R65), the encodings of the control
fields (10_state.md R11, R14, R30) and the host's register map with STATUS (R32, R33). -/

namespace Sys2Proof.Machine

/-- R11: the two bits of the phase. -/
def Phase.bits : Phase → BitVec 2
  | .train => 0#2
  | .built => 1#2
  | .assigned => 2#2
  | .fault => 3#2

/-- R14: the four bits of the fault code. -/
def ErrCode.bits : ErrCode → BitVec 4
  | .none => 0#4
  | .codeTooLong => 1#4
  | .countOverflow => 2#4
  | .weightOverflow => 3#4
  | .sequence => 4#4
  | .illegalCommand => 5#4

/-- R30: the bit of the decoder state. -/
def DecoderState.bit : DecoderState → BitVec 1
  | .atRoot => 0#1
  | .descending => 1#1

/-! ## Dispatch checks (R64, R65) -/

/-- R64: whether the phase (and, for DSYM, `RD_OPEN`) admits the command. Phase FAULT admits only CLEAR; the other
words are ignored there (R65) before this table is read. -/
def phaseOk : Instr → Phase → Bool → Bool
  | .nop, p, _ => p != .fault
  | .clear, _, _ => true
  | .train _, p, _ => p == .train
  | .build, p, _ => p == .train
  | .assign, p, _ => p == .built
  | .enc _, p, _ => p == .assigned
  | .flush, p, _ => p == .assigned
  | .dopen, p, _ => p == .built || p == .assigned
  | .dsym, p, rdOpen => (p == .built || p == .assigned) && rdOpen

/-- R65, R164: `zext_16(PHASE) << 8 | zext_16(op)`. -/
def sequenceInfo (p : Phase) (i : Instr) : BitVec 16 :=
  (p.bits.setWidth 16 <<< 8) ||| i.op.setWidth 16

/-- R65 for a legal command other than CLEAR: ignored in phase FAULT; `SEQUENCE` where the phase does not admit it;
otherwise the command runs. -/
def guarded (i : Instr) (s : State) (run : State → Outcome) : Outcome :=
  if s.PHASE = .fault then .next s
  else if phaseOk i s.PHASE s.RD_OPEN then run s
  else .next (raiseFault s .sequence (sequenceInfo s.PHASE i))

/-! ## The register map (R32) -/

/-- A one-bit field of a register. -/
def flagBit (b : Bool) : BitVec 1 := BitVec.ofBool b

/-- R33: STATUS, `[1:0] PHASE`, `[2] RD_OPEN`, `[3] EOF`, `[4] END`, `[5] BUSY`, `[6] DSTATE`, the rest 0. -/
def statusWord (s : State) : Word32 :=
  0#25 ++ s.DSTATE.bit ++ flagBit s.BUSY ++ flagBit s.END ++ flagBit s.EOF ++ flagBit s.RD_OPEN ++ s.PHASE.bits

/-- R32: the word at a word address of the host's register map; an address not listed reads 0. -/
def readReg (s : State) (a : RegAddr) : Word32 :=
  let n := a.toNat
  if n = 0x000 then statusWord s
  else if n = 0x001 then s.ERR.bits.setWidth 32
  else if n = 0x002 then s.ERRINFO.setWidth 32
  else if n = 0x003 then (0#21 ++ s.WIDX ++ s.WBUF : BitVec 32)
  else if n = 0x004 then (0#21 ++ s.RIDX ++ s.RBUF : BitVec 32)
  else if n = 0x005 then s.ROOT.setWidth 32
  else if n = 0x006 then s.HSIZE.setWidth 32
  else if n = 0x007 then s.MCOUNT.setWidth 32
  else if n = 0x008 then (0#23 ++ flagBit s.DSYM_VALID ++ s.DSYM : BitVec 32)
  else if n = 0x009 then s.DNODE.setWidth 32
  else if 0x200 ≤ n ∧ n ≤ 0x3FE then readAt s.NFREQ (n - 0x200)
  else if 0x400 ≤ n ∧ n ≤ 0x4FE then
    (0#7 ++ readAt s.NRIGHT (n - 0x400) ++ 0#7 ++ readAt s.NLEFT (n - 0x400) : BitVec 32)
  else if 0x500 ≤ n ∧ n ≤ 0x5FF then (readAt s.HEAP (n - 0x500)).setWidth 32
  else if 0x600 ≤ n ∧ n ≤ 0x6FF then readAt s.CODE (n - 0x600)
  else if 0x700 ≤ n ∧ n ≤ 0x7FF then (readAt s.LEN (n - 0x700)).setWidth 32
  else 0#32

end Sys2Proof.Machine
end

