-- ==== Sys2Proof/Machine/Operands.lean ====
section
/-! DEFINITION. The one operand form: the byte `IMM8` of TRAIN and ENC, used as a leaf handle and as an index of
the code table (30_encoding.md R61). -/

namespace Sys2Proof.Machine

/-- R61: the leaf handle of a byte, `zext_9(IMM8)`. -/
def leafOf (b : Byte) : Handle := b.setWidth 9

/-- `CODE[b]` (R23). -/
def State.code (s : State) (b : Byte) : Word32 := readAt s.CODE b.toNat

/-- `LEN[b]` (R24). -/
def State.len (s : State) (b : Byte) : BitVec 6 := readAt s.LEN b.toNat

/-- `zext_16(b)`, the form a byte value takes in ERRINFO (R161, R162). -/
def byteInfo (b : Byte) : BitVec 16 := b.setWidth 16

end Sys2Proof.Machine
end

