-- ==== Sys2Proof/Machine/CodeAssign.lean ====
section
/-! DEFINITION. ASSIGN, the code-assignment tree walker (42_code_assign.md). -/

namespace Sys2Proof.Machine

/-- The code table a walk fills (R23, R24). -/
structure CodeTable where
  CODE : Vector Word32 256
  LEN : Vector (BitVec 6) 256
  deriving DecidableEq, Repr

/-- How a walk ends. -/
inductive WalkEnd where
  /-- Every leaf below the start has its code. -/
  | done (t : CodeTable)
  /-- R112: the leaf whose depth exceeds 32, and the table written before it. -/
  | tooLong (leaf : Handle) (t : CodeTable)
  /-- A handle without child storage was descended from (R40: never). -/
  | noSuchNode
  /-- The links have a cycle (R192: never). -/
  | endless
  deriving DecidableEq, Repr

/-- R111: the code word of a path, bit `j` is edge `j`, root edge first, and 0 above. -/
def codeWord : List Bool → Word32
  | [] => 0#32
  | b :: rest => (codeWord rest <<< 1) ||| (if b then 1#32 else 0#32)

/-- R110, R111: the table entry of a leaf reached by `path`. -/
def CodeTable.enter (t : CodeTable) (h : Handle) (path : List Bool) : CodeTable :=
  { CODE := writeAt t.CODE h.toNat (codeWord path)
    LEN := writeAt t.LEN h.toNat (BitVec.ofNat 6 path.length) }

/-- R110 `walk(h, path, d)`, left child first; `d` is the length of `path`. `fuel` bounds the depth. -/
def walk (s : State) : Nat → Handle → List Bool → CodeTable → WalkEnd
  | 0, _, _, _ => .endless
  | fuel + 1, h, path, t =>
    if isLeaf h then
      if Config.MAX_CODE_LEN < path.length then .tooLong h t else .done (t.enter h path)
    else
      match s.child? h false, s.child? h true with
      | some l, some r =>
        match walk s fuel l (path ++ [false]) t with
        | .done t' => walk s fuel r (path ++ [true]) t'
        | e => e
      | _, _ => .noSuchNode

/-- A depth that no walk of the pseudocode reaches unless it never ends: a walk that is more than 32 deep and meets no
leaf only goes left (a finished left subtree would have raised the fault), so after 255 more nodes it repeats one. -/
def WALK_DEPTH : Nat := 512

/-- R110: the walk of the root's two subtrees, seeded with bit 0 and bit 1. -/
def walkTree (s : State) (t : CodeTable) : WalkEnd :=
  match s.child? s.ROOT false, s.child? s.ROOT true with
  | some l, some r =>
    match walk s WALK_DEPTH l [false] t with
    | .done t' => walk s WALK_DEPTH r [true] t'
    | e => e
  | _, _ => .noSuchNode

/-- The table an ASSIGN fills: every entry a fresh draw. A walk without fault writes all 256 entries; one that raises
`CODE_TOO_LONG` leaves the entries it did not reach unspecified (R112, U2; assumption log 1). -/
def freshTable (n : Nat) : CodeTable :=
  { CODE := tabulate 256 (Config.freeCode n), LEN := tabulate 256 (Config.freeLen n) }

/-- The state with the code table `t` written. -/
def State.withCodeTable (s : State) (t : CodeTable) : State := { s with CODE := t.CODE, LEN := t.LEN }

/-- R110, R112: what ASSIGN answers for each end of the walk; `s` is the state with the draw counted. -/
def finishAssign (s : State) : WalkEnd → Outcome
  | .done t => .next { s.withCodeTable t with PHASE := .assigned }
  | .tooLong h t => .next (raiseFault (s.withCodeTable t) .codeTooLong (h.setWidth 16))
  | .noSuchNode => .fault .noSuchNode
  | .endless => .fault .endlessWalk

/-- R110: ASSIGN. -/
def execAssign (s : State) : Outcome :=
  guarded .assign s fun s => finishAssign { s with DRAWS := s.DRAWS + 1 } (walkTree s (freshTable s.DRAWS))

end Sys2Proof.Machine
end

