-- ==== Sys2Proof/Machine/Control.lean ====
section
/-! DEFINITION. NOP, CLEAR and TRAIN (40_control_training.md). -/

namespace Sys2Proof.Machine

/-- R80: nothing, in every phase. -/
def execNop (s : State) : Outcome := guarded .nop s fun s => .next s

/-- R81: every core register to its reset value, in every phase, FAULT included (R65, R167). -/
def execClear (s : State) : Outcome := .next (toReset s)

/-- R82: one count. -/
def countByte (b : Byte) (s : State) : State :=
  { s with NFREQ := writeAt s.NFREQ (leafOf b).toNat (s.nfreq (leafOf b) + 1#32) }

/-- R82: count the training byte `b`; `COUNT_OVERFLOW` when the count is already `2^32 - 1` (R162). -/
def execTrain (b : Byte) (s : State) : Outcome :=
  guarded (.train b) s fun s =>
    if (s.nfreq (leafOf b)).toNat = Config.FREQ_MAX then
      .next (raiseFault s .countOverflow (byteInfo b))
    else .next (countByte b s)

end Sys2Proof.Machine
end

