-- ==== Sys2Proof/Machine/Decoder.lean ====
section
/-! DEFINITION. DOPEN and DSYM, the bit-stream decoder (44_decoder.md). -/

namespace Sys2Proof.Machine

/-- R137 `read_bit()`: the bit and the state after it; `none` is the hold, made before the bit is taken. -/
def readBit (s : State) : Option (Bool × State) :=
  if s.RIDX = 7#3 then
    match inRead s with
    | none => none
    | some (b, t) => some (s.RBUF.getLsbD 7, { t with RBUF := b, RIDX := 0#3 })
  else some (s.RBUF.getLsbD s.RIDX.toNat, { s with RIDX := s.RIDX + 1#3 })

/-- R140: what DOPEN leaves once the first byte `b` is loaded. -/
def openReader (b : Byte) (s : State) : State :=
  complete
    { s with
      RBUF := b
      RIDX := 0#3
      RD_OPEN := true
      END := false
      DSTATE := .atRoot
      DSYM_VALID := false }

/-- R140: DOPEN. It holds on an empty `IN`; otherwise it constructs the reader with `EOF` cleared before the read. -/
def execDopen (s : State) : Outcome :=
  guarded .dopen s fun s =>
    match s.IN with
    | [] => .next (hold s)
    | _ =>
      match inRead { s with EOF := false } with
      | none => .next (hold s)
      | some (b, t) => .next (openReader b t)

/-- R142: the end was found at the start of a symbol: no byte is emitted. -/
def endOfStream (s : State) : State := complete { s with END := true, DSYM_VALID := false }

/-- R141, R142: the leaf of `b` is reached. -/
def emitSymbol (b : Byte) (s : State) : State :=
  complete { outWrite s b with DSYM := b, DSYM_VALID := true, DSTATE := .atRoot }

/-- R142: the descent loop, at most `fuel` bits. -/
def descend : Nat → State → Outcome
  | 0, _ => .fault .endlessWalk
  | fuel + 1, s =>
    match readBit s with
    | none => .next (hold s)
    | some (r, t) =>
      match t.child? t.DNODE r with
      | none => .fault .noSuchNode
      | some d =>
        let u := { t with DSTATE := .descending, DNODE := d }
        if isLeaf d then .next (emitSymbol (d.setWidth 8) u) else descend fuel u

/-- More bits than the loop of R142 can read unless it never ends: after the bits of `RBUF` and of the tokens of `IN` it
either holds or reads the 0 bits of the fill, going left, and 512 lefts repeat a node. -/
def descendFuel (s : State) : Nat := 8 * (s.IN.length + 1) + 512

/-- R142: DSYM. A held DSYM runs this again when the host pushes a token. -/
def execDsym (s : State) : Outcome :=
  guarded .dsym s fun s =>
    if s.DSTATE = .atRoot then
      if s.EOF then .next (endOfStream s)
      else descend (descendFuel s) { s with DNODE := s.ROOT }
    else descend (descendFuel s) s

end Sys2Proof.Machine
end

