-- ==== Sys2Proof/Machine/Encoder.lean ====
section
/-! DEFINITION. ENC and FLUSH, the bit-stream encoder (43_encoder.md). -/

namespace Sys2Proof.Machine

/-- R120: `WBUF` with bit `WIDX` set to 1 if `x` is 1. -/
def putBit (buf : Byte) (i : Nat) (x : Bool) : Byte := if x then buf ||| (1#8 <<< i) else buf

/-- R120 `write_bit(x)`. -/
def writeBit (x : Bool) (s : State) : State :=
  let buf := putBit s.WBUF s.WIDX.toNat x
  if s.WIDX = 7#3 then { outWrite s buf with WBUF := 0#8, WIDX := 0#3 }
  else { s with WBUF := buf, WIDX := s.WIDX + 1#3 }

/-- Bits written one after the other, the first one first (R43). -/
def writeBits : List Bool → State → State
  | [], s => s
  | x :: rest, s => writeBits rest (writeBit x s)

/-- R122: the bits ENC writes, `CODE[b][j]` for `j` in 0 to `LEN[b] - 1`, root edge first. A `LEN` above 32, which no ASSIGN
writes, reads 0 bits above bit 31 (assumption log 6). -/
def codeBits (s : State) (b : Byte) : List Bool :=
  (List.range (s.len b).toNat).map fun j => (s.code b).getLsbD j

/-- R122: ENC `b`. -/
def execEnc (b : Byte) (s : State) : Outcome :=
  guarded (.enc b) s fun s => .next (writeBits (codeBits s b) s)

/-- R123: FLUSH, which emits the buffer even when it is empty. -/
def execFlush (s : State) : Outcome :=
  guarded .flush s fun s => .next { outWrite s s.WBUF with WBUF := 0#8, WIDX := 0#3 }

end Sys2Proof.Machine
end

