-- ==== Sys2Proof/Machine/TreeBuilder.lean ====
section
/-! DEFINITION. BUILD and its internal operations: the floor step, the min-heap and the merge step
(41_tree_builder.md). The heap operations are functions of the arrays they read; `hsize` is `HSIZE`. -/

namespace Sys2Proof.Machine

/-- R92: every leaf frequency of 0 becomes 1. -/
def floorStep (nf : Vector Freq 511) : Vector Freq 511 :=
  tabulate 511 fun i => if i < Config.ALPHABET ∧ readAt nf i = 0#32 then 1#32 else readAt nf i

/-- R93: `F(j)`, the frequency of the node in heap slot `j`. -/
def slotFreq (nf : Vector Freq 511) (heap : Vector Handle 256) (j : Nat) : Nat :=
  (readAt nf (readAt heap j).toNat).toNat

/-- `swap HEAP[i], HEAP[j]`. -/
def swapSlots (heap : Vector Handle 256) (i j : Nat) : Vector Handle 256 :=
  writeAt (writeAt heap i (readAt heap j)) j (readAt heap i)

/-- R94: the child slot that sift-down takes: the right one only if it is in the heap and strictly smaller. -/
def smallerChild (nf : Vector Freq 511) (hsize : Nat) (heap : Vector Handle 256) (i : Nat) : Nat :=
  if 2 * i + 2 < hsize ∧ slotFreq nf heap (2 * i + 2) < slotFreq nf heap (2 * i + 1) then 2 * i + 2 else 2 * i + 1

/-- R94: at most `fuel` rounds of the sift-down loop from slot `i`. -/
def siftDownLoop (nf : Vector Freq 511) (hsize : Nat) : Nat → Nat → Vector Handle 256 → Vector Handle 256
  | 0, _, heap => heap
  | fuel + 1, i, heap =>
    if hsize ≤ 2 * i + 1 then heap
    else
      let c := smallerChild nf hsize heap i
      if slotFreq nf heap c < slotFreq nf heap i then siftDownLoop nf hsize fuel c (swapSlots heap i c)
      else heap

/-- Rounds that are always enough for a heap of at most 511 slots: slot `i` is at least `2^r - 1` after `r` rounds down, and
at most `(i + 1) / 2^r - 1` after `r` rounds up. -/
def SIFT_ROUNDS : Nat := 9

/-- R94 `sift_down(i)`. -/
def siftDown (nf : Vector Freq 511) (hsize : Nat) (i : Nat) (heap : Vector Handle 256) : Vector Handle 256 :=
  siftDownLoop nf hsize SIFT_ROUNDS i heap

/-- R96: at most `fuel` rounds of the sift-up loop from slot `i`. -/
def siftUpLoop (nf : Vector Freq 511) : Nat → Nat → Vector Handle 256 → Vector Handle 256
  | 0, _, heap => heap
  | fuel + 1, i, heap =>
    if i = 0 then heap
    else if slotFreq nf heap i < slotFreq nf heap ((i - 1) / 2) then
      siftUpLoop nf fuel ((i - 1) / 2) (swapSlots heap i ((i - 1) / 2))
    else heap

/-- R96 `sift_up(i)`. -/
def siftUp (nf : Vector Freq 511) (i : Nat) (heap : Vector Handle 256) : Vector Handle 256 :=
  siftUpLoop nf SIFT_ROUNDS i heap

/-- R95 `extract_min()`: the handle in slot 0; the last element moves to the root and sifts down; its old slot keeps
its value. -/
def extractMin (s : State) : Handle × State :=
  let size := s.HSIZE - 1#9
  let moved := writeAt s.HEAP 0 (readAt s.HEAP size.toNat)
  (readAt s.HEAP 0,
    { s with
      HSIZE := size
      HEAP := if 0 < size.toNat then siftDown s.NFREQ size.toNat 0 moved else moved })

/-- R97 `insert(x)`: the handle goes to the first free slot and sifts up. -/
def insertNode (x : Handle) (s : State) : State :=
  { s with
    HSIZE := s.HSIZE + 1#9
    HEAP := siftUp s.NFREQ s.HSIZE.toNat (writeAt s.HEAP s.HSIZE.toNat x) }

/-- R98: `sift_down` of the slots `n - 1` down to 0, in that order. -/
def heapifyFrom (nf : Vector Freq 511) : Nat → Vector Handle 256 → Vector Handle 256
  | 0, heap => heap
  | n + 1, heap => heapifyFrom nf n (siftDown nf Config.ALPHABET n heap)

/-- R98: slot `j` holds leaf `j`. -/
def seedHeap : Vector Handle 256 := tabulate 256 fun i => BitVec.ofNat 9 i

/-- R98 `heapify()`: seed the heap with the 256 leaves, then sift down from the last parent slot, 127, to the root. -/
def heapify (s : State) : State :=
  { s with HSIZE := 256#9, HEAP := heapifyFrom s.NFREQ (Config.ALPHABET / 2) seedHeap }

/-- R99: the writes of merge `k` once its two nodes `a` and `c` are extracted and their sum fits. -/
def linkNode (k : Nat) (a c : Handle) (s : State) : State :=
  insertNode (BitVec.ofNat 9 (Config.ALPHABET + k))
    { s with
      NFREQ := writeAt s.NFREQ (Config.ALPHABET + k) (s.nfreq a + s.nfreq c)
      NLEFT := writeAt s.NLEFT k a
      NRIGHT := writeAt s.NRIGHT k c
      MCOUNT := BitVec.ofNat 9 (k + 1) }

/-- R99 `merge(k)`: the state after it, or the faulted state (`true` beside it) when the sum exceeds `2^32 - 1` (R163). -/
def merge (k : Nat) (s : State) : State × Bool :=
  let (a, s1) := extractMin s
  let (c, s2) := extractMin s1
  if Config.FREQ_MAX < (s2.nfreq a).toNat + (s2.nfreq c).toNat then
    (raiseFault s2 .weightOverflow (BitVec.ofNat 16 k), true)
  else (linkNode k a c s2, false)

/-- R101: merges `k`, `k + 1`, and so on, `n` of them, stopping at a fault. -/
def mergeFrom : Nat → Nat → State → State × Bool
  | 0, _, s => (s, false)
  | n + 1, k, s =>
    let (s', faulted) := merge k s
    if faulted then (s', true) else mergeFrom n (k + 1) s'

/-- R101: the floor step and heapify. -/
def startBuild (s : State) : State := heapify { s with NFREQ := floorStep s.NFREQ }

/-- R101: what BUILD leaves: the built tree in phase BUILT, or the fault of a merge with what the merges before it
wrote. -/
def buildTree (s : State) : State :=
  let (t, faulted) := mergeFrom (Config.ALPHABET - 1) 0 (startBuild s)
  if faulted then t else { t with ROOT := readAt t.HEAP 0, PHASE := .built }

/-- R101: BUILD. -/
def execBuild (s : State) : Outcome := guarded .build s fun s => .next (buildTree s)

end Sys2Proof.Machine
end

