-- ==== Sys2Proof/Machine/Dispatch.lean ====
section
/-! DEFINITION. One arm per command (30_encoding.md R62). -/

namespace Sys2Proof.Machine

def exec (i : Instr) (s : State) : Host.Outcome State Fault Refusal :=
  match i with
  | .nop => Sys2Proof.Machine.execNop s
  | .clear => Sys2Proof.Machine.execClear s
  | .train b => Sys2Proof.Machine.execTrain b s
  | .build => Sys2Proof.Machine.execBuild s
  | .assign => Sys2Proof.Machine.execAssign s
  | .enc b => Sys2Proof.Machine.execEnc b s
  | .flush => Sys2Proof.Machine.execFlush s
  | .dopen => Sys2Proof.Machine.execDopen s
  | .dsym => Sys2Proof.Machine.execDsym s

end Sys2Proof.Machine
end

