-- ==== Sys2Proof/Machine/Port.lean ====
section
/-! DEFINITION. The command port and the host: which action of the host is taken next, how a command word is
executed (30_encoding.md R65, 10_state.md R12, R16), how a push lifts a hold (20_memory.md R47) and what reset does
(70_reset_and_hazards.md R180). -/

namespace Sys2Proof.Machine

/-- The word of CLEAR, the only one executed in phase FAULT (R65, R167). -/
def CLEAR_WORD : CmdWord := 0x1000#16

/-- R65 `Execute(w)`: ignored in phase FAULT unless it is CLEAR; `ILLEGAL_COMMAND` if the word is illegal (R165);
otherwise the command, which checks its phase. -/
def executeWord (w : CmdWord) (s : State) : Outcome :=
  if s.PHASE = .fault ∧ w ≠ CLEAR_WORD then .next s
  else
    match decode w with
    | none => .next (raiseFault s .illegalCommand w)
    | some i => exec i s

/-- R16, U3: once no command is held, `CUR_CMD` holds no defined value: a fresh draw (assumption log 2). -/
def retire (s : State) : State :=
  if s.BUSY then s else { s with CUR_CMD := Config.freeCurCmd s.DRAWS, DRAWS := s.DRAWS + 1 }

/-- `retire` where there is a next state. -/
def retireOutcome : Outcome → Outcome
  | .next s => .next (retire s)
  | .fault f => .fault f
  | .refused r => .refused r

/-- R12, R16: the port takes a word; `CUR_CMD` holds it while it executes. A word that phase FAULT ignores changes
nothing (R167). -/
def acceptWord (w : CmdWord) (s : State) : Outcome :=
  if s.PHASE = .fault ∧ w ≠ CLEAR_WORD then .next s
  else retireOutcome (executeWord w { s with CUR_CMD := w })

/-- R47: the held command is executed again from `CUR_CMD`; it goes on where it held. -/
def resume (s : State) : Outcome := retireOutcome (executeWord s.CUR_CMD s)

/-- R44, R47: a token is appended to `IN`; if a command holds, it is retried. -/
def pushToken (t : Token) (s : State) : Outcome :=
  let u := { s with IN := s.IN ++ [t] }
  if u.BUSY then resume u else .next u

/-- One action of the host. -/
def hostAct : HostAction → State → Outcome
  | .write w, s => acceptWord w s
  | .push t, s => pushToken t s
  | .drain n, s => .next { s with OUT := s.OUT.drop n }
  | .read a, s => .next { s with HREADS := s.HREADS ++ [(a, readReg s a)] }
  | .reset, s => .next (toReset s)

/-- R12, R47: while a command holds, the port takes no word; the first action that is not a write is taken, and the
writes before it go on waiting in their order (assumption log 3). -/
def takeWhileHolding : List HostAction → Option (HostAction × List HostAction)
  | [] => none
  | .write w :: rest => (takeWhileHolding rest).map fun p => (p.1, .write w :: p.2)
  | .push t :: rest => some (.push t, rest)
  | .drain n :: rest => some (.drain n, rest)
  | .read a :: rest => some (.read a, rest)
  | .reset :: rest => some (.reset, rest)

/-- The host's next action and the actions after it. -/
def nextAction (s : State) : Option (HostAction × List HostAction) :=
  if s.BUSY then takeWhileHolding s.HOSTQ
  else
    match s.HOSTQ with
    | [] => none
    | a :: rest => some (a, rest)

/-- One step: the host's next action; where there is none the machine waits unchanged (R47, R187, U9). -/
def hostStep (s : State) : Outcome :=
  match nextAction s with
  | none => .next s
  | some (a, rest) => hostAct a { s with HOSTQ := rest }

/-- The host is about to write the word `w` to a port that is free (assumption log 7). -/
def presentWord (w : CmdWord) (s : State) : State := { s with BUSY := false, HOSTQ := .write w :: s.HOSTQ }

end Sys2Proof.Machine
end

