-- ==== Sys2Proof/Machine/Step.lean ====
section
/-! DEFINITION. One step of the machine, and the placing of a word where the next step takes its command. -/

namespace Sys2Proof.Machine

/-- One step: the host's next action and what the core does on it (Machine/Port.lean). -/
def step (s : State) : Host.Outcome State Fault Refusal := hostStep s

/-- `s` with the word `w` (its low `nbits` bits) as the next word the host writes, the port being free to take it: the very
next step executes it (assumption log 7). -/
def State.withFetchWord (s : State) (nbits w : Nat) : State := presentWord (BitVec.ofNat 16 (w % 2 ^ nbits)) s

end Sys2Proof.Machine
end

