-- ==== Sys2Proof/Machine/Assembler.lean ====
section
/-! DEFINITION. The assembler syntax: a line of text to the commands it stands for (30_encoding.md R68), with the
pseudo-instructions of R69. Text is a list of characters; a line that is neither is `none`. What the two rules leave open
of the text is a DESIGN CHOICE (assumption log 11). -/

namespace Sys2Proof.Asm

/-- Blanks between the parts of a line. -/
def isBlank (c : Char) : Bool := c == ' ' || c == '\t' || c == '\r'

/-- The text after its leading blanks. -/
def skipBlanks (cs : List Char) : List Char := cs.dropWhile isBlank

/-- What may follow a command on its line (R68): blanks, then nothing or a comment. -/
def lineEnds (cs : List Char) : Bool :=
  match skipBlanks cs with
  | [] => true
  | c :: _ => c == ';'

/-- The value of a decimal digit. -/
def decDigit (c : Char) : Option Nat := if '0' ≤ c ∧ c ≤ '9' then some (c.toNat - '0'.toNat) else none

/-- The value of a hexadecimal digit, of either case. -/
def hexDigit (c : Char) : Option Nat :=
  if '0' ≤ c ∧ c ≤ '9' then some (c.toNat - '0'.toNat)
  else if 'a' ≤ c ∧ c ≤ 'f' then some (c.toNat - 'a'.toNat + 10)
  else if 'A' ≤ c ∧ c ≤ 'F' then some (c.toNat - 'A'.toNat + 10)
  else none

/-- The digits at the front of a text, added to `acc`, and the text after them. -/
def digits (digit : Char → Option Nat) (base : Nat) : Nat → List Char → Nat × List Char
  | acc, [] => (acc, [])
  | acc, c :: rest =>
    match digit c with
    | some d => digits digit base (base * acc + d) rest
    | none => (acc, c :: rest)

/-- A decimal number (`97`), and the text after it. -/
def decNumber (cs : List Char) : Option (Nat × List Char) :=
  match cs with
  | [] => none
  | c :: rest => (decDigit c).map fun d => digits decDigit 10 d rest

/-- The digits of a hexadecimal number, and the text after it. -/
def hexNumber (cs : List Char) : Option (Nat × List Char) :=
  match cs with
  | [] => none
  | c :: rest => (hexDigit c).map fun d => digits hexDigit 16 d rest

/-- R68: a number in hexadecimal (`0x61`) or decimal (`97`), and the text after it; leading zeros and the case of a
hexadecimal digit are a DESIGN CHOICE (assumption log 11). -/
def number (cs : List Char) : Option (Nat × List Char) :=
  if cs.take 2 = ['0', 'x'] then hexNumber (cs.drop 2) else decNumber cs

/-- R68: a quoted character between two single quotes, and the text after it. -/
def quotedChar (cs : List Char) : Option (Byte × List Char) :=
  match cs with
  | _ :: c :: q :: rest => if q == '\'' && c.toNat < 256 then some (BitVec.ofNat 8 c.toNat, rest) else none
  | _ => none

/-- R68: a byte operand: hexadecimal, decimal or a quoted character, and the text after it. -/
def byteOperand (cs : List Char) : Option (Byte × List Char) :=
  if cs.head? = some '\'' then quotedChar cs
  else
    match number cs with
    | some (n, rest) => if n < 256 then some (BitVec.ofNat 8 n, rest) else none
    | none => none

/-- The bytes of the characters before a closing double quote, and the text after it. -/
def stringTail : List Char → Option (List Byte × List Char)
  | [] => none
  | c :: rest =>
    if c == '"' then some ([], rest)
    else if c.toNat < 256 then (stringTail rest).map fun p => (BitVec.ofNat 8 c.toNat :: p.1, p.2)
    else none

/-- R69: a quoted string operand, and the text after it. -/
def stringOperand (cs : List Char) : Option (List Byte × List Char) :=
  if cs.head? = some '"' then stringTail cs.tail else none

/-- R69: the operands `b, n` of `TRAIN.REP`. R69 does not give the form of `n`; that it is a number in decimal or hexadecimal, of
any size, is a DESIGN CHOICE (assumption log 11). -/
def repOperands (cs : List Char) : Option ((Byte × Nat) × List Char) :=
  match byteOperand cs with
  | some (b, rest) =>
    let rest' := skipBlanks rest
    if rest'.head? = some ',' then (number (skipBlanks rest'.tail)).map fun p => ((b, p.1), p.2) else none
  | none => none

/-- The commands of an operand that was read, if the line ends after it. -/
def withOperand {α : Type} (operand : Option (α × List Char)) (f : α → List Instr) : Option (List Instr) :=
  match operand with
  | some (x, rest) => if lineEnds rest then some (f x) else none
  | none => none

/-- The commands of a mnemonic (R62) or pseudo-instruction (R69) and the text after it. The count of `DSYM.N` has the form of that of
`TRAIN.REP`, a DESIGN CHOICE (assumption log 11). -/
def command (name : List Char) (rest : List Char) : Option (List Instr) :=
  let plain (i : Instr) : Option (List Instr) := if lineEnds rest then some [i] else none
  let arg := skipBlanks rest
  if name = ['N', 'O', 'P'] then plain .nop
  else if name = ['C', 'L', 'E', 'A', 'R'] then plain .clear
  else if name = ['B', 'U', 'I', 'L', 'D'] then plain .build
  else if name = ['A', 'S', 'S', 'I', 'G', 'N'] then plain .assign
  else if name = ['F', 'L', 'U', 'S', 'H'] then plain .flush
  else if name = ['D', 'O', 'P', 'E', 'N'] then plain .dopen
  else if name = ['D', 'S', 'Y', 'M'] then plain .dsym
  else if name = ['T', 'R', 'A', 'I', 'N'] then withOperand (byteOperand arg) fun b => [.train b]
  else if name = ['E', 'N', 'C'] then withOperand (byteOperand arg) fun b => [.enc b]
  else if name = ['T', 'R', 'A', 'I', 'N', '.', 'S', 'T', 'R'] then withOperand (stringOperand arg) Pseudo.trainStr
  else if name = ['T', 'R', 'A', 'I', 'N', '.', 'R', 'E', 'P'] then
    withOperand (repOperands arg) fun p => Pseudo.trainRep p.1 p.2
  else if name = ['E', 'N', 'C', '.', 'S', 'T', 'R'] then withOperand (stringOperand arg) Pseudo.encStr
  else if name = ['E', 'N', 'C', 'O', 'D', 'E'] then withOperand (stringOperand arg) Pseudo.encode
  else if name = ['D', 'S', 'Y', 'M', '.', 'N'] then withOperand (number arg) Pseudo.dsymN
  else if name = ['S', 'E', 'T', 'U', 'P'] then withOperand (stringOperand arg) Pseudo.setup
  else none

/-- A character of a mnemonic. -/
def isNameChar (c : Char) : Bool := ('A' ≤ c && c ≤ 'Z') || c == '.'

/-- R68: the commands of one line; a blank line or a comment stands for none. -/
def line (cs : List Char) : Option (List Instr) :=
  let text := skipBlanks cs
  if lineEnds text then some []
  else command (text.takeWhile isNameChar) (text.dropWhile isNameChar)

/-- The lines of a text. -/
def splitLines : List Char → List Char → List (List Char)
  | [], acc => [acc.reverse]
  | c :: rest, acc => if c == '\n' then acc.reverse :: splitLines rest [] else splitLines rest (c :: acc)

/-- R68: a text of one command per line, as the command words the host writes. -/
def assemble (cs : List Char) : Option (List CmdWord) :=
  ((splitLines cs []).mapM line).map fun ls => ls.flatten.map Sys2Proof.encode

end Sys2Proof.Asm
end

