-- ==== Sys2Proof/Safety.lean ====
section
/-! DEFINITION. The terms in which claims about the machine are made: which parts of two states agree, the heap
order, paths of the tree, the bits the writer and the reader hold, runs of commands, and the invariants. None of
them is used by the machine. -/

namespace Sys2Proof.Machine

/-! ## Parts of the state that a command leaves alone -/

/-- The tree state of `t` is that of `s` (R17 to R22). -/
def sameTree (s t : State) : Prop :=
  t.NFREQ = s.NFREQ ∧ t.NLEFT = s.NLEFT ∧ t.NRIGHT = s.NRIGHT ∧ t.HEAP = s.HEAP ∧ t.HSIZE = s.HSIZE ∧
    t.MCOUNT = s.MCOUNT ∧ t.ROOT = s.ROOT

/-- The code table of `t` is that of `s` (R23, R24). -/
def sameCodes (s t : State) : Prop := t.CODE = s.CODE ∧ t.LEN = s.LEN

/-- The writer of `t` is that of `s` (R25). -/
def sameWriter (s t : State) : Prop := t.WBUF = s.WBUF ∧ t.WIDX = s.WIDX

/-- The reader and the decoder of `t` are those of `s` (R26 to R31). -/
def sameReader (s t : State) : Prop :=
  t.RBUF = s.RBUF ∧ t.RIDX = s.RIDX ∧ t.EOF = s.EOF ∧ t.RD_OPEN = s.RD_OPEN ∧ t.END = s.END ∧
    t.DSTATE = s.DSTATE ∧ t.DNODE = s.DNODE ∧ t.DSYM = s.DSYM ∧ t.DSYM_VALID = s.DSYM_VALID

/-- The phase and the fault registers of `t` are those of `s` (R11, R14, R15). -/
def samePhase (s t : State) : Prop := t.PHASE = s.PHASE ∧ t.ERR = s.ERR ∧ t.ERRINFO = s.ERRINFO

/-- The streams of `t` are those of `s` (R44). -/
def sameStreams (s t : State) : Prop := t.IN = s.IN ∧ t.OUT = s.OUT

/-- What no command but CLEAR touches: `CUR_CMD`, and the host's actions and reads. -/
def sameHost (s t : State) : Prop := t.CUR_CMD = s.CUR_CMD ∧ t.HOSTQ = s.HOSTQ ∧ t.HREADS = s.HREADS

/-- Every register and array that R35 gives a reset value has it in `t`. -/
def hasResetValues (t : State) : Prop :=
  t.PHASE = .train ∧ t.ERR = .none ∧ t.ERRINFO = 0#16 ∧ t.BUSY = false ∧
    (∀ b : Byte, t.nfreq (leafOf b) = 0#32) ∧
    t.HSIZE = 0#9 ∧ t.MCOUNT = 0#9 ∧ t.ROOT = 0#9 ∧
    t.WBUF = 0#8 ∧ t.WIDX = 0#3 ∧ t.RBUF = 0#8 ∧ t.RIDX = 0#3 ∧
    t.EOF = false ∧ t.RD_OPEN = false ∧ t.END = false ∧
    t.DSTATE = .atRoot ∧ t.DNODE = 0#9 ∧ t.DSYM = 0#8 ∧ t.DSYM_VALID = false

/-- R64, the cells marked `no`: the phase does not admit the command, or DSYM has no open reader. -/
def inadmissible (s : State) : Instr → Prop
  | .nop => False
  | .clear => False
  | .train _ => s.PHASE ≠ .train
  | .build => s.PHASE ≠ .train
  | .assign => s.PHASE ≠ .built
  | .enc _ => s.PHASE ≠ .assigned
  | .flush => s.PHASE ≠ .assigned
  | .dopen => s.PHASE = .train
  | .dsym => s.PHASE = .train ∨ s.RD_OPEN = false

/-- The command words among the host's actions, in order (R12). -/
def wordsOf : List HostAction → List CmdWord
  | [] => []
  | .write w :: rest => w :: wordsOf rest
  | .push _ :: rest => wordsOf rest
  | .drain _ :: rest => wordsOf rest
  | .read _ :: rest => wordsOf rest
  | .reset :: rest => wordsOf rest

/-! ## The heap and the tree -/

/-- R93: heap order over the slots 0 to `hsize - 1`. -/
def heapOrdered (nf : Vector Freq 511) (hsize : Nat) (heap : Vector Handle 256) : Prop :=
  ∀ i, 1 ≤ i → i < hsize → slotFreq nf heap ((i - 1) / 2) ≤ slotFreq nf heap i

/-- The handles of the heap, slot 0 first. -/
def heapHandles (s : State) : List Handle := (List.range s.HSIZE.toNat).map fun j => readAt s.HEAP j

/-- R92: the frequency of a leaf after the floor step, as a number. -/
def flooredFreq (s : State) (b : Nat) : Nat :=
  if readAt s.NFREQ b = 0#32 then 1 else (readAt s.NFREQ b).toNat

/-- The sum of the 256 floored leaf frequencies (R102, R106). -/
def flooredSum (s : State) : Nat := ((List.range 256).map (flooredFreq s)).sum

/-- The node a path leads to from `h`, root edge first, 0 left and 1 right (R9, R141). -/
def follow (s : State) : Handle → List Bool → Option Handle
  | h, [] => some h
  | h, b :: rest =>
    match s.child? h b with
    | none => none
    | some c => follow s c rest

/-- The path `p` leads from the root to the leaf of byte `b`. -/
def leafPath (s : State) (p : List Bool) (b : Byte) : Prop := follow s s.ROOT p = some (leafOf b)

/-- R91: the children of node `256 + k` are leaves or nodes created before it. -/
def olderChildren (s : State) : Prop :=
  ∀ k, k < 255 → (readAt s.NLEFT k).toNat < 256 + k ∧ (readAt s.NRIGHT k).toNat < 256 + k

/-- Node `h` is the child of node `256 + k` on the side of `bit`. -/
def isChildOf (s : State) (h : Nat) (k : Nat) (bit : Bool) : Prop :=
  (if bit then readAt s.NRIGHT k else readAt s.NLEFT k).toNat = h

/-- R102: every handle 0 to 509 is a child of exactly one internal node, on one side. -/
def oneParent (s : State) : Prop :=
  ∀ h, h < 510 → ∃ k bit, k < 255 ∧ isChildOf s h k bit ∧
    ∀ k' bit', k' < 255 → isChildOf s h k' bit' → k' = k ∧ bit' = bit

/-- R104: every internal frequency is the sum of its two children's. -/
def sumsOfChildren (s : State) : Prop :=
  ∀ k, k < 255 → (readAt s.NFREQ (256 + k)).toNat =
    (s.nfreq (readAt s.NLEFT k)).toNat + (s.nfreq (readAt s.NRIGHT k)).toNat

/-- A tree as BUILD leaves it (R91, R102). -/
def builtTree (s : State) : Prop := s.ROOT = 510#9 ∧ olderChildren s ∧ oneParent s

/-- The path `q` leaves the path `p` to its left: they agree up to an edge that is left in `q` and right in `p`. In left-first
pre-order the leaf of `q` comes before the leaf of `p` (R110). -/
def leftOf (q p : List Bool) : Prop := ∃ r x y, q = r ++ false :: x ∧ p = r ++ true :: y

/-- R111: the table entry of `b` is the path `p`: bit `j` of the code is edge `j`, 0 above, and the length is that of `p`. -/
def codeIs (s : State) (b : Byte) (p : List Bool) : Prop :=
  (s.len b).toNat = p.length ∧ ∀ j, j < 32 → (s.code b).getLsbD j = p[j]?.getD false

/-- R111, R113: every byte has a code of 1 to 32 bits, and it is the path to its leaf. -/
def codesArePaths (s : State) : Prop :=
  ∀ b : Byte, ∃ p, leafPath s p b ∧ 1 ≤ p.length ∧ p.length ≤ 32 ∧ codeIs s b p

/-! ## The bits of the streams -/

/-- The byte whose bit `j` is bit `j` of the list, 0 where the list has none (R42). -/
def byteOf (bits : List Bool) : Byte := (BitVec.ofBoolListLE bits).setWidth 8

/-- R42, R43: the first `n` bytes of a bit sequence, bit `p` of it being bit `p mod 8` of byte `p / 8`. -/
def bytesOf (n : Nat) (bits : List Bool) : List Byte := (List.range n).map fun i => byteOf (bits.drop (8 * i))

/-- The bits of a byte, bit 0 first (R42). -/
def bitsOf (b : Byte) : List Bool := (List.range 8).map fun j => b.getLsbD j

/-- The bits the writer holds, oldest first (R25). -/
def pendingBits (s : State) : List Bool := (bitsOf s.WBUF).take s.WIDX.toNat

/-- R120: the bits of `WBUF` that no write has reached are 0. -/
def writerClean (s : State) : Prop := ∀ j, s.WIDX.toNat ≤ j → s.WBUF.getLsbD j = false

/-- The codes of a payload one after the other (R43). -/
def payloadBits (s : State) (payload : List Byte) : List Bool := (payload.map (codeBits s)).flatten

/-- The bytes of `IN` before the first `End` (R44). -/
def sessionBytes : List Token → List Byte
  | [] => []
  | .endMark :: _ => []
  | .byte b :: rest => b :: sessionBytes rest

/-- The bits the reader will return before the fill: those left of `RBUF`, then those of the bytes before `End`. -/
def unreadBits (s : State) : List Bool :=
  (bitsOf s.RBUF).drop s.RIDX.toNat ++ if s.EOF then [] else ((sessionBytes s.IN).map bitsOf).flatten

/-- How many bits the reader returns before `EOF` becomes 1 (R137). -/
def bitsBeforeEnd (s : State) : Nat := if s.EOF then 0 else (unreadBits s).length

/-- Bit `j` of what the reader will return: the unread bits, then the 0 bits of the fill (R136). -/
def futureBit (s : State) (j : Nat) : Bool := (unreadBits s)[j]?.getD false

/-- The reader finds the end of the session in the tokens it has (R187). -/
def sessionEnds (s : State) : Prop := s.EOF = true ∨ Token.endMark ∈ s.IN

/-! ## Runs -/

/-- The commands of a list executed one after the other, stopping where there is no next state. -/
def runCommands : List Instr → State → Outcome
  | [], s => .next s
  | i :: rest, s =>
    match exec i s with
    | .next t => runCommands rest t
    | .fault f => .fault f
    | .refused r => .refused r

/-! ## Invariants -/

/-- The answer of a step that executes a command word: the command's own answer, with `CUR_CMD` a fresh draw once no
command is held (R16, U3). -/
def retired : Outcome → Outcome
  | .next t => .next (if t.BUSY = true then t else { t with CUR_CMD := Config.freeCurCmd t.DRAWS, DRAWS := t.DRAWS + 1 })
  | .fault f => .fault f
  | .refused r => .refused r

/-- What holds of every state a run reaches, whatever the host does: the legal values of R34, the shape of a hold (R16,
R30, R47), which registers each phase leaves at their reset values, and that a built tree can be walked (R91). That `IN` is
empty while a command holds rests on the push and the retry being one step (assumption log 9). -/
structure Inv (s : State) : Prop where
  hsize : s.HSIZE.toNat ≤ 256
  mcount : s.MCOUNT.toNat ≤ 255
  root : s.ROOT.toNat ≤ 510
  dnode : s.DNODE.toNat ≤ 510
  faulted : s.PHASE = .fault ↔ s.ERR ≠ .none
  info : s.ERR = .none → s.ERRINFO = 0#16
  training : s.PHASE = .train → s.HSIZE = 0#9 ∧ s.MCOUNT = 0#9 ∧ s.ROOT = 0#9 ∧ s.RD_OPEN = false
  tree : s.PHASE = .built ∨ s.PHASE = .assigned →
    s.ROOT = 510#9 ∧ s.MCOUNT = 255#9 ∧ s.HSIZE = 1#9 ∧ olderChildren s
  writer : writerClean s
  idleWriter : s.PHASE = .train ∨ s.PHASE = .built → s.WBUF = 0#8 ∧ s.WIDX = 0#3
  closed : s.RD_OPEN = false → s.EOF = false ∧ s.END = false ∧ s.DSYM_VALID = false
  ended : s.END = true → s.EOF = true
  held : s.BUSY = true → s.IN = [] ∧ (s.PHASE = .built ∨ s.PHASE = .assigned) ∧
    (s.CUR_CMD = 0x7000#16 ∨ (s.CUR_CMD = 0x8000#16 ∧ s.RD_OPEN = true ∧ s.EOF = false ∧ s.RIDX = 7#3))
  descending : s.DSTATE = .descending → s.BUSY = true ∧ s.CUR_CMD = 0x8000#16 ∧ 256 ≤ s.DNODE.toNat

/-- What the codec rests on: a built tree is a tree, its frequencies are the sums R104 gives, and an assigned code table
holds the path of every byte (R111, R113). -/
structure CodecInv (s : State) : Prop where
  tree : s.PHASE = .built ∨ s.PHASE = .assigned → builtTree s ∧ sumsOfChildren s
  codes : s.PHASE = .assigned → codesArePaths s

end Sys2Proof.Machine
end

