-- ==== Sys2Proof/Certificates/Slice0/Obligations.lean ====
section
/-! DEFINITION. The statements for the provers, one `def Obligations.<Name> : Prop` each. Where a statement says
`t = { s with X := t.X, … }`, the fields named are the ones that may change and every other field is that of `s`. -/

open Sys2Proof Sys2Proof.Machine

/-! ## Encoding -/

/-- R60 to R63: the decoder reads back every command from its word, whatever the operand. -/
def Obligations.DecodeEncodeRoundTrip : Prop := ∀ i : Instr, decode (encode i) = some i

/-- R63: a word is legal when `OP` is at most 8, `RSV` is 0, and `IMM8` is 0 unless `OP` is 2 or 5; it decodes to a command exactly
then, and it is that command's word. -/
def Obligations.DecodesExactlyLegalWords : Prop :=
  ∀ w : CmdWord,
    (CmdWord.legalEncoding w = true ↔ w.toNat / 2 ^ 12 ≤ 8 ∧ w.toNat / 2 ^ 8 % 2 ^ 4 = 0 ∧
      (w.toNat % 2 ^ 8 = 0 ∨ w.toNat / 2 ^ 12 = 2 ∨ w.toNat / 2 ^ 12 = 5)) ∧
    ((decode w).isSome = true ↔ CmdWord.legalEncoding w = true) ∧
    ∀ i, decode w = some i → encode i = w

/-- R62, R63: the nine rows of the opcode map as words, with operands at both ends of their range, and illegal words. -/
def Obligations.SampleWordsDecode : Prop :=
  decodeTableWord 16 0x0000 = some .nop ∧ decodeTableWord 16 0x1000 = some .clear ∧
    decodeTableWord 16 0x2000 = some (.train 0x00#8) ∧ decodeTableWord 16 0x20FF = some (.train 0xFF#8) ∧
    decodeTableWord 16 0x2061 = some (.train 0x61#8) ∧ decodeTableWord 16 0x3000 = some .build ∧
    decodeTableWord 16 0x4000 = some .assign ∧ decodeTableWord 16 0x5000 = some (.enc 0x00#8) ∧
    decodeTableWord 16 0x50FF = some (.enc 0xFF#8) ∧ decodeTableWord 16 0x5041 = some (.enc 0x41#8) ∧
    decodeTableWord 16 0x6000 = some .flush ∧ decodeTableWord 16 0x7000 = some .dopen ∧
    decodeTableWord 16 0x8000 = some .dsym ∧ decodeTableWord 16 0x9000 = none ∧
    decodeTableWord 16 0x0100 = none ∧ decodeTableWord 16 0x3001 = none

/-! ## The command port and the step -/

/-- R12, R65: with the port free, a step takes the word the host writes next and executes the command it decodes to, with
the word in `CUR_CMD`; phase FAULT takes only CLEAR this way. That `CUR_CMD` is a fresh draw once no command is held (`retired`)
is the model's choice: assumption log 2, and log 1 for the counter of draws. -/
def Obligations.StepExecutesWrittenWord : Prop :=
  ∀ (s : State) (w : CmdWord) (q : List HostAction) (i : Instr),
    s.BUSY = false → s.HOSTQ = .write w :: q → decode w = some i → (s.PHASE ≠ .fault ∨ i = .clear) →
    step s = retired (exec i { s with HOSTQ := q, CUR_CMD := w })

/-- R44, R47: a push appends a token; while a command holds, a push, behind words that wait for the port too, also retries
that command with the token in `IN`. That the push and the retry are one step, that a push comes before the words that wait, and
that `CUR_CMD` is a fresh draw once no command is held (`retired`), are the model's choices: assumption log 9, 3, 2 and 1. -/
def Obligations.PushResumesHeldCommand : Prop :=
  ∀ (s : State) (ws : List CmdWord) (tok : Token) (q : List HostAction),
    (s.BUSY = false → s.HOSTQ = .push tok :: q → step s = .next { s with HOSTQ := q, IN := s.IN ++ [tok] }) ∧
    ∀ i : Instr, s.BUSY = true → s.HOSTQ = ws.map .write ++ .push tok :: q → s.PHASE ≠ .fault →
      decode s.CUR_CMD = some i →
      step s = retired (exec i { s with HOSTQ := ws.map .write ++ q, IN := s.IN ++ [tok] })

/-- R12, R47: while a command holds, no step takes a command word. That the words wait in their order, across reset too, and that
a step with only waiting words answers the same state, are the model's choices: assumption log 3 and 8. -/
def Obligations.HeldPortTakesNoWord : Prop :=
  ∀ s t : State, s.BUSY = true → step s = .next t →
    wordsOf t.HOSTQ = wordsOf s.HOSTQ ∧ (s.HOSTQ.length = (wordsOf s.HOSTQ).length → t = s)

/-- R32, R50: a host read of the register map, during a hold and behind words that wait too, gives the word as it stands and
changes no state of the core. The word goes to `HREADS`, which is the model's own record (assumption log 4); that a read comes
before the words that wait is the model's choice (log 3). -/
def Obligations.HostReadHasNoSideEffect : Prop :=
  ∀ (s : State) (ws : List CmdWord) (a : RegAddr) (q : List HostAction), (ws = [] ∨ s.BUSY = true) →
    s.HOSTQ = ws.map .write ++ .read a :: q →
    step s = .next { s with HOSTQ := ws.map .write ++ q, HREADS := s.HREADS ++ [(a, readReg s a)] }

/-- R180: reset ends a held command at once, behind words that wait too, and gives every element its reset value; `IN` and `OUT`
do not change. That the words that wait stay is the model's choice (assumption log 3). -/
def Obligations.ResetEndsAnyCommand : Prop :=
  ∀ (s : State) (ws : List CmdWord) (q : List HostAction), (ws = [] ∨ s.BUSY = true) →
    s.HOSTQ = ws.map .write ++ .reset :: q →
    ∃ t, step s = .next t ∧ hasResetValues t ∧ t.IN = s.IN ∧ t.OUT = s.OUT ∧ t.HOSTQ = ws.map .write ++ q

/-- R35: the state after reset has the reset values, and so has the state after CLEAR. -/
def Obligations.ResetStateValues : Prop :=
  hasResetValues State.reset ∧ ∀ s : State, ∃ t, exec .clear s = .next t ∧ hasResetValues t

/-! ## The register map -/

/-- R33: the fields of STATUS, with the numbers of the phases (R11) and of the decoder states (R30). -/
def Obligations.StatusFields : Prop :=
  ∀ s : State,
    (readReg s 0x000#12).extractLsb' 0 2 = s.PHASE.bits ∧
    (s.PHASE = .train → (readReg s 0x000#12).extractLsb' 0 2 = 0#2) ∧
    (s.PHASE = .built → (readReg s 0x000#12).extractLsb' 0 2 = 1#2) ∧
    (s.PHASE = .assigned → (readReg s 0x000#12).extractLsb' 0 2 = 2#2) ∧
    (s.PHASE = .fault → (readReg s 0x000#12).extractLsb' 0 2 = 3#2) ∧
    (readReg s 0x000#12).getLsbD 2 = s.RD_OPEN ∧ (readReg s 0x000#12).getLsbD 3 = s.EOF ∧
    (readReg s 0x000#12).getLsbD 4 = s.END ∧ (readReg s 0x000#12).getLsbD 5 = s.BUSY ∧
    ((readReg s 0x000#12).getLsbD 6 = true ↔ s.DSTATE = .descending) ∧
    ∀ j, 7 ≤ j → (readReg s 0x000#12).getLsbD j = false

/-- R32: the words of the register map after STATUS, as numbers, with the numbers of the fault codes (R14); an address not
listed reads 0. -/
def Obligations.RegisterMapWords : Prop :=
  ∀ s : State,
    (readReg s 0x001#12).toNat = s.ERR.bits.toNat ∧
    (s.ERR = .none → readReg s 0x001#12 = 0#32) ∧ (s.ERR = .codeTooLong → readReg s 0x001#12 = 1#32) ∧
    (s.ERR = .countOverflow → readReg s 0x001#12 = 2#32) ∧ (s.ERR = .weightOverflow → readReg s 0x001#12 = 3#32) ∧
    (s.ERR = .sequence → readReg s 0x001#12 = 4#32) ∧ (s.ERR = .illegalCommand → readReg s 0x001#12 = 5#32) ∧
    (readReg s 0x002#12).toNat = s.ERRINFO.toNat ∧
    (readReg s 0x003#12).toNat = s.WBUF.toNat + 2 ^ 8 * s.WIDX.toNat ∧
    (readReg s 0x004#12).toNat = s.RBUF.toNat + 2 ^ 8 * s.RIDX.toNat ∧
    (readReg s 0x005#12).toNat = s.ROOT.toNat ∧ (readReg s 0x006#12).toNat = s.HSIZE.toNat ∧
    (readReg s 0x007#12).toNat = s.MCOUNT.toNat ∧
    (readReg s 0x008#12).toNat = s.DSYM.toNat + 2 ^ 8 * s.DSYM_VALID.toNat ∧
    (readReg s 0x009#12).toNat = s.DNODE.toNat ∧
    (∀ i, i ≤ 510 → readReg s (BitVec.ofNat 12 (0x200 + i)) = readAt s.NFREQ i) ∧
    (∀ k, k ≤ 254 → (readReg s (BitVec.ofNat 12 (0x400 + k))).toNat =
      (readAt s.NLEFT k).toNat + 2 ^ 16 * (readAt s.NRIGHT k).toNat) ∧
    (∀ j, j ≤ 255 → (readReg s (BitVec.ofNat 12 (0x500 + j))).toNat = (readAt s.HEAP j).toNat) ∧
    (∀ b, b ≤ 255 → readReg s (BitVec.ofNat 12 (0x600 + b)) = readAt s.CODE b) ∧
    (∀ b, b ≤ 255 → (readReg s (BitVec.ofNat 12 (0x700 + b))).toNat = (readAt s.LEN b).toNat) ∧
    ∀ a : RegAddr, (0x009 < a.toNat ∧ a.toNat < 0x200) ∨ a.toNat = 0x3FF ∨ a.toNat = 0x4FF ∨ 0x7FF < a.toNat →
      readReg s a = 0#32

/-! ## Control and training -/

/-- R80: NOP changes nothing, in every phase. -/
def Obligations.NopChangesNothing : Prop := ∀ s : State, exec .nop s = .next s

/-- R81: CLEAR gives the reset values in every phase and touches neither stream, and no other word leaves phase FAULT. -/
def Obligations.ClearGivesResetValues : Prop :=
  (∀ s : State, ∃ t, exec .clear s = .next t ∧ hasResetValues t ∧ t.IN = s.IN ∧ t.OUT = s.OUT ∧
    t.HOSTQ = s.HOSTQ ∧ t.HREADS = s.HREADS) ∧
  ∀ (s t : State) (w : CmdWord), s.PHASE = .fault → executeWord w s = .next t → t.PHASE ≠ .fault → w = 0x1000#16

/-- R82: in phase TRAIN, TRAIN adds exactly one to the count of its byte and changes nothing else; a count of `2^32 - 1`
faults; outside phase TRAIN it raises `SEQUENCE`. -/
def Obligations.TrainCountsOneByte : Prop :=
  ∀ (s : State) (b : Byte),
    (s.PHASE = .train → (s.nfreq (leafOf b)).toNat < 2 ^ 32 - 1 →
      ∃ t, exec (.train b) s = .next t ∧ t = { s with NFREQ := t.NFREQ } ∧
        (t.nfreq (leafOf b)).toNat = (s.nfreq (leafOf b)).toNat + 1 ∧
        ∀ i, i < 511 → i ≠ b.toNat → readAt t.NFREQ i = readAt s.NFREQ i) ∧
    (s.PHASE = .train → (s.nfreq (leafOf b)).toNat = 2 ^ 32 - 1 →
      exec (.train b) s = .next { s with ERR := .countOverflow, ERRINFO := b.setWidth 16, PHASE := .fault, BUSY := false }) ∧
    (s.PHASE = .built ∨ s.PHASE = .assigned →
      ∃ t, exec (.train b) s = .next t ∧ t.ERR = .sequence ∧
        t = { s with ERR := .sequence, ERRINFO := t.ERRINFO, PHASE := .fault, BUSY := false })

/-- R83: a training session adds to each count the number of times its byte occurs, whatever the order, and changes nothing
else. -/
def Obligations.TrainingSessionCounts : Prop :=
  ∀ (s : State) (l : List Byte), s.PHASE = .train →
    (∀ b : Byte, (s.nfreq (leafOf b)).toNat + l.count b ≤ 2 ^ 32 - 1) →
    ∃ t, runCommands (Pseudo.trainStr l) s = .next t ∧ t = { s with NFREQ := t.NFREQ } ∧
      (∀ b : Byte, (t.nfreq (leafOf b)).toNat = (s.nfreq (leafOf b)).toNat + l.count b) ∧
      (∀ i, 256 ≤ i → i < 511 → readAt t.NFREQ i = readAt s.NFREQ i) ∧
      ∀ l', l.Perm l' → runCommands (Pseudo.trainStr l') s = .next t

/-! ## Faults -/

/-- R64, R164: a legal command that the phase does not admit raises `SEQUENCE` and has no other effect; `ERRINFO` holds the
opcode and the phase, by their numbers. -/
def Obligations.OutOfPhaseRaisesSequence : Prop :=
  ∀ (s : State) (i : Instr), s.PHASE ≠ .fault → inadmissible s i →
    ∃ info : BitVec 16,
      exec i s = .next { s with ERR := .sequence, ERRINFO := info, PHASE := .fault, BUSY := false } ∧
      info.extractLsb' 0 4 = i.op ∧ info.extractLsb' 4 4 = 0#4 ∧
      info.extractLsb' 8 2 = s.PHASE.bits ∧ (s.PHASE = .train → info.extractLsb' 8 2 = 0#2) ∧
      (s.PHASE = .built → info.extractLsb' 8 2 = 1#2) ∧ (s.PHASE = .assigned → info.extractLsb' 8 2 = 2#2) ∧
      info.extractLsb' 10 6 = 0#6

/-- R165: outside phase FAULT an illegal word raises `ILLEGAL_COMMAND` with the word as information, and has no other
effect (`CUR_CMD`, which holds no defined value once the word is done, apart). -/
def Obligations.IllegalWordFaults : Prop :=
  ∀ (s : State) (w : CmdWord) (q : List HostAction),
    s.BUSY = false → s.PHASE ≠ .fault → s.HOSTQ = .write w :: q → CmdWord.legalEncoding w = false →
    ∃ t, step s = .next t ∧
      t = { s with HOSTQ := q, ERR := .illegalCommand, ERRINFO := w, PHASE := .fault,
                   CUR_CMD := t.CUR_CMD, DRAWS := t.DRAWS }

/-- R167: in phase FAULT every word but CLEAR is ignored; CLEAR and reset give the reset values, and nothing else the host does
leaves the phase. -/
def Obligations.FaultPhaseIgnoresWords : Prop :=
  ∀ s : State, s.PHASE = .fault → s.BUSY = false →
    (∀ w q, s.HOSTQ = .write w :: q → w ≠ 0x1000#16 → step s = .next { s with HOSTQ := q }) ∧
    (∀ q, s.HOSTQ = .write 0x1000#16 :: q ∨ s.HOSTQ = .reset :: q →
      ∃ t, step s = .next t ∧ hasResetValues t ∧ t.IN = s.IN ∧ t.OUT = s.OUT ∧ t.HOSTQ = q) ∧
    (∀ t, step s = .next t → t.PHASE ≠ .fault → ∃ q, s.HOSTQ = .write 0x1000#16 :: q ∨ s.HOSTQ = .reset :: q) ∧
    ∀ i : Instr, i ≠ .clear → exec i s = .next s

/-- R11: the only writers of `PHASE` among the commands are CLEAR (to TRAIN), BUILD (to BUILT), ASSIGN (to ASSIGNED) and the
fault entry (to FAULT), and only the fault entry and CLEAR write `ERR` (R14). -/
def Obligations.PhaseAndErrWriters : Prop :=
  ∀ (s t : State) (i : Instr), exec i s = .next t →
    (i = .clear ∧ t.PHASE = .train ∧ t.ERR = .none) ∨
    (t.PHASE = s.PHASE ∧ t.ERR = s.ERR ∧ t.ERRINFO = s.ERRINFO) ∨
    (i = .build ∧ s.PHASE = .train ∧ t.PHASE = .built ∧ t.ERR = s.ERR ∧ t.ERRINFO = s.ERRINFO) ∨
    (i = .assign ∧ s.PHASE = .built ∧ t.PHASE = .assigned ∧ t.ERR = s.ERR ∧ t.ERRINFO = s.ERRINFO) ∨
    (s.PHASE ≠ .fault ∧ t.PHASE = .fault ∧ t.BUSY = false ∧
      ((i = .assign ∧ t.ERR = .codeTooLong) ∨ (i = .build ∧ t.ERR = .weightOverflow) ∨
       ((∃ b, i = .train b) ∧ t.ERR = .countOverflow) ∨ t.ERR = .sequence))

/-! ## The heap -/

/-- R94: `siftDown` is the loop of the rule: the model's bound on the rounds never shows. -/
def Obligations.SiftDownIsTheLoop : Prop :=
  ∀ (nf : Vector Freq 511) (hsize i : Nat) (heap : Vector Handle 256), hsize ≤ 256 →
    siftDown nf hsize i heap =
      if 2 * i + 1 ≥ hsize then heap
      else
        let c := if 2 * i + 2 < hsize ∧ slotFreq nf heap (2 * i + 2) < slotFreq nf heap (2 * i + 1) then 2 * i + 2
          else 2 * i + 1
        if slotFreq nf heap c < slotFreq nf heap i then siftDown nf hsize c (swapSlots heap i c) else heap

/-- R96: `siftUp` is the loop of the rule: the model's bound on the rounds never shows. -/
def Obligations.SiftUpIsTheLoop : Prop :=
  ∀ (nf : Vector Freq 511) (i : Nat) (heap : Vector Handle 256), i < 256 →
    siftUp nf i heap =
      if i = 0 then heap
      else if slotFreq nf heap i < slotFreq nf heap ((i - 1) / 2) then
        siftUp nf ((i - 1) / 2) (swapSlots heap i ((i - 1) / 2))
      else heap

/-- R103: heap order holds at the end of heapify, and every extract-min and insert keeps it. -/
def Obligations.HeapOrderIsKept : Prop :=
  (∀ s : State, heapOrdered s.NFREQ (heapify s).HSIZE.toNat (heapify s).HEAP) ∧
  (∀ s : State, 1 ≤ s.HSIZE.toNat → s.HSIZE.toNat ≤ 256 → heapOrdered s.NFREQ s.HSIZE.toNat s.HEAP →
    heapOrdered s.NFREQ (extractMin s).2.HSIZE.toNat (extractMin s).2.HEAP) ∧
  ∀ (s : State) (x : Handle), s.HSIZE.toNat ≤ 255 → heapOrdered s.NFREQ s.HSIZE.toNat s.HEAP →
    heapOrdered s.NFREQ (insertNode x s).HSIZE.toNat (insertNode x s).HEAP

/-- R95: extract-min returns `HEAP[0]`, which is of minimum frequency, and removes it; the logical size goes down by one, the
other handles stay, and every slot from the new size on, the vacated one among them, keeps its value. -/
def Obligations.ExtractMinTakesMinimum : Prop :=
  ∀ s : State, 1 ≤ s.HSIZE.toNat → s.HSIZE.toNat ≤ 256 → heapOrdered s.NFREQ s.HSIZE.toNat s.HEAP →
    (extractMin s).1 = readAt s.HEAP 0 ∧
    (∀ h, h ∈ heapHandles s → (s.nfreq (extractMin s).1).toNat ≤ (s.nfreq h).toNat) ∧
    (extractMin s).2.HSIZE.toNat = s.HSIZE.toNat - 1 ∧
    ((extractMin s).1 :: heapHandles (extractMin s).2).Perm (heapHandles s) ∧
    (∀ j, s.HSIZE.toNat - 1 ≤ j → readAt (extractMin s).2.HEAP j = readAt s.HEAP j) ∧
    (extractMin s).2 = { s with HSIZE := (extractMin s).2.HSIZE, HEAP := (extractMin s).2.HEAP }

/-- R97: insert adds its handle to the heap and one to the logical size. -/
def Obligations.InsertAddsHandle : Prop :=
  ∀ (s : State) (x : Handle), s.HSIZE.toNat ≤ 255 →
    (insertNode x s).HSIZE.toNat = s.HSIZE.toNat + 1 ∧
    (heapHandles (insertNode x s)).Perm (x :: heapHandles s) ∧
    (∀ j, s.HSIZE.toNat < j → readAt (insertNode x s).HEAP j = readAt s.HEAP j) ∧
    insertNode x s = { s with HSIZE := (insertNode x s).HSIZE, HEAP := (insertNode x s).HEAP }

/-! ## BUILD -/

/-- R104: after `k` merges the heap holds `256 - k` handles, each once, in heap order, and they are the nodes created so far
that are no node's child; every node created has the sum of its children's frequencies. -/
def Obligations.LiveNodesStandInHeapOnce : Prop :=
  ∀ (s u : State) (k : Nat), k ≤ 255 → mergeFrom k 0 (startBuild s) = (u, false) →
    u.HSIZE.toNat = 256 - k ∧ (heapHandles u).Nodup ∧ heapOrdered u.NFREQ u.HSIZE.toNat u.HEAP ∧
    (∀ h : Handle, h ∈ heapHandles u ↔
      h.toNat < 256 + k ∧ ∀ j bit, j < k → ¬ isChildOf u h.toNat j bit) ∧
    ∀ j, j < k → (readAt u.NFREQ (256 + j)).toNat =
      (u.nfreq (readAt u.NLEFT j)).toNat + (u.nfreq (readAt u.NRIGHT j)).toNat

/-- R101, R102, R106: in phase TRAIN, where the floored frequencies sum to at most `2^32 - 1`, BUILD completes: one node is
left, node 510, which is the root and holds the sum; the leaves keep their floored counts, the links are a tree, and only
the tree state and the phase change. -/
def Obligations.BuildMakesTheTree : Prop :=
  ∀ s : State, s.PHASE = .train → flooredSum s ≤ 2 ^ 32 - 1 →
    ∃ t, exec .build s = .next t ∧
      t = { s with NFREQ := t.NFREQ, NLEFT := t.NLEFT, NRIGHT := t.NRIGHT, HEAP := t.HEAP, HSIZE := 1#9,
                   MCOUNT := 255#9, ROOT := 510#9, PHASE := .built } ∧
      readAt t.HEAP 0 = 510#9 ∧ (readAt t.NFREQ 510).toNat = flooredSum s ∧
      (∀ b, b < 256 → (readAt t.NFREQ b).toNat = flooredFreq s b) ∧
      builtTree t ∧ sumsOfChildren t ∧ ∀ j, j < 256 → (readAt t.HEAP j).toNat ≤ 510

/-- R163: where the floored frequencies sum to more than `2^32 - 1`, BUILD raises `WEIGHT_OVERFLOW` at the first merge `k` whose two
extracted frequencies sum to more: `u` is the state before that merge. `ERRINFO` and `MCOUNT` hold `k`, the two handles are out of
the heap, node `256 + k` and the later ones are not written, and the floor step stays. -/
def Obligations.BuildOverflowFaults : Prop :=
  ∀ s : State, s.PHASE = .train → s.MCOUNT = 0#9 → 2 ^ 32 - 1 < flooredSum s →
    ∃ t u k, k ≤ 254 ∧ exec .build s = .next t ∧ mergeFrom k 0 (startBuild s) = (u, false) ∧
      (let a := extractMin u
       let c := extractMin a.2
       2 ^ 32 - 1 < (u.nfreq a.1).toNat + (u.nfreq c.1).toNat ∧
       t = { c.2 with ERR := .weightOverflow, ERRINFO := BitVec.ofNat 16 k, PHASE := .fault, BUSY := false }) ∧
      t = { s with NFREQ := t.NFREQ, NLEFT := t.NLEFT, NRIGHT := t.NRIGHT, HEAP := t.HEAP,
                   HSIZE := BitVec.ofNat 9 (254 - k), MCOUNT := BitVec.ofNat 9 k,
                   ERR := .weightOverflow, ERRINFO := BitVec.ofNat 16 k, PHASE := .fault, BUSY := false } ∧
      (∀ j, k ≤ j → j < 255 → readAt t.NFREQ (256 + j) = readAt s.NFREQ (256 + j) ∧
        readAt t.NLEFT j = readAt s.NLEFT j ∧ readAt t.NRIGHT j = readAt s.NRIGHT j) ∧
      (∀ b, b < 256 → (readAt t.NFREQ b).toNat = flooredFreq s b)

/-- R100, R107: what BUILD makes is a function of the 256 counts alone, node for node and handle for handle; nothing it reads
was there before it wrote it (R36). -/
def Obligations.BuildDependsOnCountsOnly : Prop :=
  ∀ s s' t t' : State, s.PHASE = .train → s'.PHASE = .train →
    (∀ b, b < 256 → readAt s.NFREQ b = readAt s'.NFREQ b) →
    exec .build s = .next t → exec .build s' = .next t' →
    t.PHASE = t'.PHASE ∧ t.HEAP = t'.HEAP ∧ t.HSIZE = t'.HSIZE ∧
    (t.PHASE = .built → t.NFREQ = t'.NFREQ ∧ t.NLEFT = t'.NLEFT ∧ t.NRIGHT = t'.NRIGHT ∧ t.ROOT = t'.ROOT ∧
      t.MCOUNT = t'.MCOUNT) ∧
    (t.PHASE = .fault → t.ERR = t'.ERR ∧ t.ERRINFO = t'.ERRINFO)

/-- R105: the tree of a completed BUILD is optimal: every byte has a leaf in it, and no binary prefix code of the 256 bytes has a
smaller sum of floored frequency times code length. -/
def Obligations.BuiltTreeIsOptimal : Prop :=
  ∀ s : State, s.PHASE = .train → flooredSum s ≤ 2 ^ 32 - 1 →
    ∃ t, exec .build s = .next t ∧ t.PHASE = .built ∧ (∀ b : Byte, ∃ p, leafPath t p b) ∧
      ∀ path code : Byte → List Bool, (∀ b, leafPath t (path b) b) → (∀ b c, b ≠ c → ¬ code b <+: code c) →
        ((List.range 256).map fun b => flooredFreq s b * (path (BitVec.ofNat 8 b)).length).sum ≤
          ((List.range 256).map fun b => flooredFreq s b * (code (BitVec.ofNat 8 b)).length).sum

/-! ## ASSIGN -/

/-- R110, R111: in phase BUILT, on a built tree no leaf of which is deeper than 32, ASSIGN completes: the code of every byte is
its root-to-leaf path, bit 0 the edge that leaves the root, and only the code table and the phase change. -/
def Obligations.AssignWritesPaths : Prop :=
  ∀ s : State, s.PHASE = .built → builtTree s → (∀ p b, leafPath s p b → p.length ≤ 32) →
    ∃ t, exec .assign s = .next t ∧ t = { s with CODE := t.CODE, LEN := t.LEN, PHASE := .assigned, DRAWS := t.DRAWS } ∧
      (∀ p b, leafPath s p b → codeIs t b p) ∧ codesArePaths t

/-- R112, R161: where a leaf is deeper than 32, ASSIGN raises `CODE_TOO_LONG` at the first such leaf in left-first pre-order, with
its byte value in `ERRINFO`; the leaves to its left have their codes. Nothing is said of the other entries, which R112 leaves
unspecified. -/
def Obligations.AssignFaultsOnDeepLeaf : Prop :=
  ∀ s : State, s.PHASE = .built → builtTree s → (∃ p b, leafPath s p b ∧ 32 < p.length) →
    ∃ (t : State) (p : List Bool) (b : Byte), exec .assign s = .next t ∧ leafPath s p b ∧ 32 < p.length ∧
      (∀ q c, leafPath s q c → leftOf q p → q.length ≤ 32 ∧ codeIs t c q) ∧
      t = { s with CODE := t.CODE, LEN := t.LEN, ERR := .codeTooLong, ERRINFO := b.setWidth 16,
                   PHASE := .fault, BUSY := false, DRAWS := t.DRAWS }

/-- R113: after an ASSIGN without fault every byte has a code of 1 to 32 bits, and no code is a prefix of another's. -/
def Obligations.CodesArePrefixFree : Prop :=
  ∀ s t : State, s.PHASE = .built → builtTree s → exec .assign s = .next t → t.PHASE = .assigned →
    (∀ b : Byte, 1 ≤ (t.len b).toNat ∧ (t.len b).toNat ≤ 32) ∧
    ∀ b c : Byte, b ≠ c → ¬ codeBits t b <+: codeBits t c

/-- R114: after an ASSIGN without fault the code lengths satisfy the Kraft equality. -/
def Obligations.CodeLengthsFillKraft : Prop :=
  ∀ s t : State, s.PHASE = .built → builtTree s → exec .assign s = .next t → t.PHASE = .assigned →
    ((List.range 256).map fun b => 2 ^ (32 - (readAt t.LEN b).toNat)).sum = 2 ^ 32

/-- R115: after an ASSIGN without fault exactly one byte has the code 0: the leaf reached by left edges only. -/
def Obligations.OneAllZeroCode : Prop :=
  ∀ s t : State, s.PHASE = .built → builtTree s → exec .assign s = .next t → t.PHASE = .assigned →
    ∃ b : Byte, t.code b = 0#32 ∧ (∀ c : Byte, t.code c = 0#32 → c = b) ∧
      leafPath t (List.replicate (t.len b).toNat false) b

/-! ## The writer -/

/-- R120: a written bit goes to bit `WIDX` of the byte; the eighth one emits the byte and restarts the buffer at 0. -/
def Obligations.WriteBitFillsByte : Prop :=
  ∀ (s : State) (x : Bool), writerClean s →
    ∃ buf : Byte, (∀ j, j < 8 → buf.getLsbD j = if j = s.WIDX.toNat then x else s.WBUF.getLsbD j) ∧
      (s.WIDX.toNat < 7 → writeBit x s = { s with WBUF := buf, WIDX := BitVec.ofNat 3 (s.WIDX.toNat + 1) }) ∧
      (s.WIDX.toNat = 7 → writeBit x s = { s with OUT := s.OUT ++ [buf], WBUF := 0#8, WIDX := 0#3 })

/-- R122: in phase ASSIGNED, ENC completes: its code follows the bits the writer holds; the whole bytes of the two go to `OUT`, the
rest stays in the buffer, and nothing else changes. -/
def Obligations.EncPacksTheCode : Prop :=
  ∀ (s : State) (b : Byte), s.PHASE = .assigned → writerClean s →
    let bits := pendingBits s ++ codeBits s b
    exec (.enc b) s = .next
      { s with OUT := s.OUT ++ bytesOf (bits.length / 8) bits,
               WBUF := byteOf (bits.drop (8 * (bits.length / 8))),
               WIDX := BitVec.ofNat 3 (bits.length % 8) }

/-- R123: in phase ASSIGNED, FLUSH completes: it emits the buffer always, restarts the writer, and changes nothing else; in the byte
it emits, the bits from `WIDX` on, which no write has reached, are 0, and the whole byte is 0 when the buffer is empty; before
phase ASSIGNED it raises `SEQUENCE`. -/
def Obligations.FlushAlwaysEmitsOneByte : Prop :=
  ∀ s : State,
    (s.PHASE = .assigned → exec .flush s = .next { s with OUT := s.OUT ++ [s.WBUF], WBUF := 0#8, WIDX := 0#3 }) ∧
    (s.PHASE = .assigned → writerClean s →
      ∃ t b, exec .flush s = .next t ∧ t.OUT = s.OUT ++ [b] ∧ (∀ j, s.WIDX.toNat ≤ j → b.getLsbD j = false) ∧
        (s.WIDX = 0#3 → b = 0x00#8)) ∧
    (s.PHASE = .train ∨ s.PHASE = .built →
      ∃ t, exec .flush s = .next t ∧
        t = { s with ERR := .sequence, ERRINFO := t.ERRINFO, PHASE := .fault, BUSY := false })

/-- R124, R125: a write session appends `L / 8` bytes during its ENC commands and one at its FLUSH; bit `p` of the session is bit `p mod
8` of its byte `p / 8`; the 1 to 8 padding bits are 0; everything else is as before. -/
def Obligations.WriteSessionBytes : Prop :=
  ∀ (s : State) (payload : List Byte), s.PHASE = .assigned → s.WBUF = 0#8 → s.WIDX = 0#3 →
    let bits := payloadBits s payload
    ∃ (u t : State) (bytes : List Byte),
      runCommands (Pseudo.encStr payload) s = .next u ∧ u.OUT = s.OUT ++ bytes.take (bits.length / 8) ∧
      runCommands (Pseudo.encode payload) s = .next t ∧ t = { s with OUT := s.OUT ++ bytes } ∧
      bytes.length = bits.length / 8 + 1 ∧
      (∀ p, p < 8 * bytes.length → (bytes[p / 8]?.getD 0#8).getLsbD (p % 8) = bits[p]?.getD false) ∧
      1 ≤ 8 * bytes.length - bits.length ∧ 8 * bytes.length - bits.length ≤ 8 ∧
      (8 * bytes.length - bits.length = 8 ↔ bits.length % 8 = 0)

/-! ## The reader -/

/-- R45, R136: one read attempt: after the end it returns 0x00 and leaves `IN` alone; an empty `IN` holds; a byte is taken; `End` is taken,
sets `EOF` and returns 0x00. -/
def Obligations.InReadAttempt : Prop :=
  ∀ s : State,
    (s.EOF = true → inRead s = some (0x00#8, s)) ∧
    (s.EOF = false → s.IN = [] → inRead s = none) ∧
    (∀ b rest, s.EOF = false → s.IN = .byte b :: rest → inRead s = some (b, { s with IN := rest })) ∧
    (∀ rest, s.EOF = false → s.IN = .endMark :: rest → inRead s = some (0x00#8, { s with IN := rest, EOF := true }))

/-- R136, R137: `read_bit` returns the next bit of the session and moves on by one bit; `EOF` becomes 1 exactly when it takes the last
bit before `End`; it holds exactly when the load would. -/
def Obligations.ReadBitTakesNextBit : Prop :=
  ∀ s : State,
    (readBit s = none ↔ s.RIDX = 7#3 ∧ s.EOF = false ∧ s.IN = []) ∧
    ∀ r t, readBit s = some (r, t) →
      r = futureBit s 0 ∧ (∀ j, futureBit t j = futureBit s (j + 1)) ∧ bitsBeforeEnd t = bitsBeforeEnd s - 1 ∧
      (sessionEnds s → (sessionEnds t ∧ (t.EOF = true ↔ bitsBeforeEnd s ≤ 1))) ∧
      t = { s with RBUF := t.RBUF, RIDX := t.RIDX, EOF := t.EOF, IN := t.IN }

/-- R140: DOPEN holds on an empty `IN`; otherwise it completes: it takes the first token, which loads `RBUF` (0x00 and `EOF` for `End`), and opens
the session; in phase TRAIN it raises `SEQUENCE`. Nothing else changes. -/
def Obligations.DopenOpensReader : Prop :=
  ∀ s : State,
    (s.PHASE = .built ∨ s.PHASE = .assigned →
      (s.IN = [] → exec .dopen s = .next { s with BUSY := true }) ∧
      (∀ b rest, s.IN = .byte b :: rest → exec .dopen s = .next
        { s with IN := rest, EOF := false, RBUF := b, RIDX := 0#3, RD_OPEN := true, END := false,
                 DSTATE := .atRoot, DSYM_VALID := false, BUSY := false }) ∧
      (∀ rest, s.IN = .endMark :: rest → exec .dopen s = .next
        { s with IN := rest, EOF := true, RBUF := 0x00#8, RIDX := 0#3, RD_OPEN := true, END := false,
                 DSTATE := .atRoot, DSYM_VALID := false, BUSY := false })) ∧
    (s.PHASE = .train →
      ∃ t, exec .dopen s = .next t ∧
        t = { s with ERR := .sequence, ERRINFO := t.ERRINFO, PHASE := .fault, BUSY := false })

/-- R141, R142: a DSYM that starts before the end completes where the bits it needs are there, because `End` was pushed (the fill goes
on for ever) or because more bits than it takes are unread: where the next bits of the session are the path of a leaf, it emits
that leaf's byte, moves on by the path's length, and changes nothing but the reader and the streams. -/
def Obligations.DsymDecodesOnePath : Prop :=
  ∀ (s : State) (p : List Bool) (b : Byte),
    s.PHASE = .built ∨ s.PHASE = .assigned → s.RD_OPEN = true → s.DSTATE = .atRoot → s.EOF = false →
    Token.endMark ∈ s.IN ∨ p.length < (unreadBits s).length → leafPath s p b → 1 ≤ p.length → p.length ≤ 255 →
    (∀ j, j < p.length → p[j]? = some (futureBit s j)) →
    ∃ t, exec .dsym s = .next t ∧
      t = { s with RBUF := t.RBUF, RIDX := t.RIDX, EOF := t.EOF, IN := t.IN, OUT := s.OUT ++ [b], DSYM := b,
                   DSYM_VALID := true, DSTATE := .atRoot, DNODE := leafOf b, BUSY := false } ∧
      (∀ j, futureBit t j = futureBit s (j + p.length)) ∧ bitsBeforeEnd t = bitsBeforeEnd s - p.length ∧
      (t.EOF = true ↔ bitsBeforeEnd s ≤ p.length) ∧ (Token.endMark ∈ s.IN → sessionEnds t)

/-- R142: a DSYM that starts where `EOF = 1` sets `END`, emits nothing and changes nothing else. -/
def Obligations.DsymFindsTheEnd : Prop :=
  ∀ s : State, s.PHASE = .built ∨ s.PHASE = .assigned → s.RD_OPEN = true → s.DSTATE = .atRoot → s.EOF = true →
    exec .dsym s = .next { s with END := true, DSYM_VALID := false, BUSY := false }

/-- R143: `END` is sticky: until DOPEN or CLEAR every command leaves it set, and a DSYM emits nothing. -/
def Obligations.EndIsSticky : Prop :=
  ∀ (s t : State) (i : Instr), s.END = true → s.EOF = true → s.DSTATE = .atRoot → i ≠ .dopen → i ≠ .clear →
    exec i s = .next t →
    t.END = true ∧ t.EOF = true ∧ t.DSTATE = .atRoot ∧ (i = .dsym → t.OUT = s.OUT ∧ t.IN = s.IN)

/-- R47, R137, R142: a DSYM whose next bit needs a token that is not there holds: at the start of a symbol it stands at the root with
`DSTATE` still AT_ROOT, inside one it stays where it was. -/
def Obligations.DsymHoldsOnEmptyInput : Prop :=
  ∀ s : State, s.PHASE = .built ∨ s.PHASE = .assigned → s.RD_OPEN = true → s.EOF = false → s.RIDX = 7#3 → s.IN = [] →
    (s.DSTATE = .atRoot → exec .dsym s = .next { s with DNODE := s.ROOT, BUSY := true }) ∧
    (s.DSTATE = .descending → exec .dsym s = .next { s with BUSY := true })

/-- R16, R47: only DOPEN and DSYM hold; a held one has taken every token there was, has emitted nothing, and waits before the end. -/
def Obligations.OnlyReaderCommandsHold : Prop :=
  ∀ (s t : State) (i : Instr), s.BUSY = false → exec i s = .next t → t.BUSY = true →
    (i = .dopen ∧ s.IN = [] ∧ t = { s with BUSY := true }) ∨
    (i = .dsym ∧ t.IN = [] ∧ t.EOF = false ∧ t.RIDX = 7#3 ∧
      t = { s with RBUF := t.RBUF, RIDX := 7#3, IN := [], DSTATE := t.DSTATE, DNODE := t.DNODE, BUSY := true })

/-- R47: a hold is transparent: a DSYM that held and is retried with one more token answers what it would have answered, had
the token been there from the start. -/
def Obligations.HoldIsTransparent : Prop :=
  ∀ (s t : State) (tok : Token), s.PHASE = .built ∨ s.PHASE = .assigned → s.RD_OPEN = true →
    s.ROOT = 510#9 → olderChildren s → (s.DSTATE = .descending → 256 ≤ s.DNODE.toNat ∧ s.DNODE.toNat ≤ 510) →
    exec .dsym s = .next t → t.BUSY = true →
    exec .dsym { t with IN := t.IN ++ [tok] } = exec .dsym { s with IN := s.IN ++ [tok] }

/-! ## Frames -/

/-- R121: ENC and FLUSH change the writer and append to `OUT`; the tree, the code table, the reader and `IN` stay, and the phase and fault
registers change only where `SEQUENCE` is raised. -/
def Obligations.WriterCommandFrame : Prop :=
  ∀ (s t : State) (i : Instr), (∃ b, i = .enc b) ∨ i = .flush → exec i s = .next t →
    sameTree s t ∧ sameCodes s t ∧ sameReader s t ∧ sameHost s t ∧ t.DRAWS = s.DRAWS ∧ t.IN = s.IN ∧
    (∃ bs, t.OUT = s.OUT ++ bs) ∧
    ((samePhase s t ∧ t.BUSY = s.BUSY) ∨ (t.ERR = .sequence ∧ sameWriter s t ∧ t.OUT = s.OUT))

/-- R121: DOPEN and DSYM change the reader, take tokens from the front of `IN` and append to `OUT`; the tree, the code table and the writer
stay, and the phase and fault registers change only where `SEQUENCE` is raised. -/
def Obligations.ReaderCommandFrame : Prop :=
  ∀ (s t : State) (i : Instr), i = .dopen ∨ i = .dsym → exec i s = .next t →
    sameTree s t ∧ sameCodes s t ∧ sameWriter s t ∧ sameHost s t ∧ t.DRAWS = s.DRAWS ∧
    (∃ n, t.IN = s.IN.drop n) ∧ (∃ bs, bs.length ≤ 1 ∧ t.OUT = s.OUT ++ bs) ∧ (i = .dopen → t.OUT = s.OUT) ∧
    (samePhase s t ∨ (t.ERR = .sequence ∧ sameReader s t ∧ sameStreams s t))

/-- R17, R18, R104: TRAIN, BUILD and ASSIGN leave the writer, the reader, the streams and the host's fields alone; TRAIN and BUILD also the
code table, ASSIGN also the tree; and TRAIN changes no link, no slot and no frequency but its own. -/
def Obligations.TreeCommandFrame : Prop :=
  ∀ (s t : State) (i : Instr), (∃ b, i = .train b) ∨ i = .build ∨ i = .assign → exec i s = .next t →
    sameWriter s t ∧ sameReader s t ∧ sameStreams s t ∧ sameHost s t ∧
    (i ≠ .assign → sameCodes s t ∧ t.DRAWS = s.DRAWS) ∧ (i = .assign → sameTree s t) ∧
    (∀ b, i = .train b → t.NLEFT = s.NLEFT ∧ t.NRIGHT = s.NRIGHT ∧ t.HEAP = s.HEAP ∧ t.HSIZE = s.HSIZE ∧
      t.MCOUNT = s.MCOUNT ∧ t.ROOT = s.ROOT ∧ ∀ j, j ≠ b.toNat → readAt t.NFREQ j = readAt s.NFREQ j)

/-! ## Invariants -/

/-- The state after reset meets both invariants. -/
def Obligations.InvHoldsAtReset : Prop := Inv State.reset ∧ CodecInv State.reset

/-- R34, R16, R30, R47, R192: from every state that meets the invariant, whatever the host does next, a step answers a next state,
and it meets the invariant: the legal values of R34 and the shape of a hold. So no walk leaves the tree or goes on without
end; array accesses are total in the model, and the statement says nothing of them (assumption log 5). That `IN` is empty
while a command holds rests on the push and the retry being one step, and a step without an action is the same state: the
model's choices, log 9 and 8. -/
def Obligations.StepAnswersAndKeepsInv : Prop := ∀ s : State, Inv s → ∃ t, step s = .next t ∧ Inv t

/-- R102, R104, R113: from every state that meets the invariants, a step keeps what the codec rests on: a built tree is a tree whose
frequencies are sums, and an assigned code table holds the path of every byte. -/
def Obligations.StepKeepsCodecInv : Prop :=
  ∀ s t : State, Inv s → CodecInv s → step s = .next t → CodecInv t

/-! ## The codec -/

/-- R144: exact decode: the bytes of a write session, read with the same tree, give back the payload, symbol by symbol, and none of
these DSYM finds the end. -/
def Obligations.CountedDecodeIsExact : Prop :=
  ∀ (s t u : State) (payload bytes : List Byte) (rest : List Token) (n : Nat),
    s.PHASE = .assigned → codesArePaths s → s.WBUF = 0#8 → s.WIDX = 0#3 →
    runCommands (Pseudo.encode payload) s = .next t → t.OUT = s.OUT ++ bytes →
    u.PHASE = .built ∨ u.PHASE = .assigned → u.NLEFT = s.NLEFT → u.NRIGHT = s.NRIGHT → u.ROOT = s.ROOT →
    u.IN = bytes.map .byte ++ .endMark :: rest → n ≤ payload.length →
    ∃ v, runCommands (.dopen :: Pseudo.dsymN n) u = .next v ∧ v.OUT = u.OUT ++ payload.take n ∧ v.END = false ∧
      (1 ≤ n → v.DSYM_VALID = true ∧ some v.DSYM = payload[n - 1]?)

/-- R145: trailing padding: after the payload the decoder emits exactly `ceil(P / d0)` copies of the all-zero leaf's byte, at least one,
and the next DSYM finds the end. -/
def Obligations.PaddingDecodesToZeroLeaf : Prop :=
  ∀ (s t u : State) (payload bytes : List Byte) (rest : List Token) (z : Byte) (d0 : Nat),
    s.PHASE = .assigned → codesArePaths s → s.WBUF = 0#8 → s.WIDX = 0#3 →
    runCommands (Pseudo.encode payload) s = .next t → t.OUT = s.OUT ++ bytes →
    u.PHASE = .built ∨ u.PHASE = .assigned → u.NLEFT = s.NLEFT → u.NRIGHT = s.NRIGHT → u.ROOT = s.ROOT →
    u.IN = bytes.map .byte ++ .endMark :: rest →
    leafPath s (List.replicate d0 false) z → 1 ≤ d0 →
    let P := 8 * bytes.length - (payloadBits s payload).length
    let spurious := (P + d0 - 1) / d0
    1 ≤ spurious ∧
    (∀ j, j ≤ spurious → ∃ v, runCommands (.dopen :: Pseudo.dsymN (payload.length + j)) u = .next v ∧
      v.OUT = u.OUT ++ payload ++ List.replicate j z ∧ v.END = false) ∧
    ∃ v, runCommands (.dopen :: Pseudo.dsymN (payload.length + spurious + 1)) u = .next v ∧
      v.OUT = u.OUT ++ payload ++ List.replicate spurious z ∧ v.END = true ∧ v.IN = rest

/-! ## The assembler -/

/-- R68, R69: the three examples of R68, and two expansions of R69. The last line goes beyond the rules' examples: that the count of
`DSYM.N` is written in decimal (as T44-8 writes it) and that a blank may stand before the comment are the model's choices
(assumption log 11). -/
def Obligations.AssemblerExamples : Prop :=
  Asm.assemble ['T', 'R', 'A', 'I', 'N', ' ', '\'', 'a', '\''] = some [0x2061#16] ∧
  Asm.assemble ['E', 'N', 'C', ' ', '0', 'x', '4', '1'] = some [0x5041#16] ∧
  Asm.assemble ['D', 'S', 'Y', 'M'] = some [0x8000#16] ∧
  Asm.assemble ['E', 'N', 'C', 'O', 'D', 'E', ' ', '"', 'A', 'B', '"'] = some [0x5041#16, 0x5042#16, 0x6000#16] ∧
  Asm.assemble ['D', 'S', 'Y', 'M', '.', 'N', ' ', '2', ' ', ';', 'x'] = some [0x8000#16, 0x8000#16]
end

