-- ==== Sys2Proof/Laws/Arrays.lean ====
section
/-! SUPPORT. Reads and writes of array elements (20_memory.md R40), tabulated arrays and slot swaps. -/

namespace Sys2Proof.Machine

section arrays
variable {α : Type} {n : Nat}

/-- A read after a write to the same element gives the value written. -/
@[simp] theorem readAt_writeAt_same [Inhabited α] (v : Vector α n) (x : α) {i : Nat} (h : i < n) :
    readAt (writeAt v i x) i = x := by
  simp [readAt, writeAt, h]

/-- A write leaves every other element alone. -/
theorem readAt_writeAt_other [Inhabited α] (v : Vector α n) (x : α) {i j : Nat} (h : i ≠ j) :
    readAt (writeAt v i x) j = readAt v j := by
  simp [readAt, writeAt, h]

/-- A read after a write, at any two elements. -/
theorem readAt_writeAt [Inhabited α] (v : Vector α n) (x : α) (i j : Nat) :
    readAt (writeAt v i x) j = if i = j ∧ i < n then x else readAt v j := by
  by_cases h : i = j
  · subst h
    by_cases hn : i < n <;> simp [readAt, writeAt, hn]
  · simp [readAt_writeAt_other v x h, h]

/-- A write outside the array writes nothing. -/
theorem writeAt_outside (v : Vector α n) (x : α) {i : Nat} (h : n ≤ i) : writeAt v i x = v := by
  ext j hj
  have : i ≠ j := by omega
  simp [writeAt, this]

/-- Writing what an element holds changes nothing. -/
theorem writeAt_readAt [Inhabited α] (v : Vector α n) (i : Nat) : writeAt v i (readAt v i) = v := by
  by_cases h : i < n
  · ext j hj
    by_cases hij : i = j <;> simp [writeAt, readAt, hij, hj]
  · exact writeAt_outside v _ (by omega)

/-- Two arrays with the same elements are the same array. -/
theorem eq_of_readAt_eq [Inhabited α] {v w : Vector α n} (h : ∀ i, i < n → readAt v i = readAt w i) : v = w := by
  ext i hi
  have := h i hi
  simpa [readAt, hi] using this

/-- Element `j` of the last `m` values. -/
theorem getElem?_lastOf (f : Nat → α) (m j : Nat) (hm : m ≤ n) (hj : j < m) :
    (lastOf f n m)[j]? = some (f (n - m + j)) := by
  induction m generalizing j with
  | zero => omega
  | succ m ih =>
    cases j with
    | zero => simp [lastOf]
    | succ j =>
      have e : n - (m + 1) + (j + 1) = n - m + j := by omega
      rw [e, ← ih j (by omega) (by omega)]
      simp [lastOf]

/-- Element `i` of a tabulated array. -/
@[simp] theorem readAt_tabulate [Inhabited α] (f : Nat → α) {i : Nat} (h : i < n) :
    readAt (tabulate n f) i = f i := by
  have e := getElem?_lastOf (n := n) f n i (Nat.le_refl n) h
  rw [List.getElem?_eq_getElem (by rw [length_lastOf]; exact h)] at e
  simpa [readAt, tabulate, h] using e

end arrays

/-- R92: the floor step at a leaf. -/
theorem readAt_floorStep_leaf (nf : Vector Freq 511) {i : Nat} (h : i < 256) :
    readAt (floorStep nf) i = if readAt nf i = 0#32 then 1#32 else readAt nf i := by
  have h' : i < 511 := by omega
  simp [floorStep, h', Config.ALPHABET, h]

/-- R92: the floor step at a node that is no leaf. -/
theorem readAt_floorStep_internal (nf : Vector Freq 511) {i : Nat} (h : 256 ≤ i) (h' : i < 511) :
    readAt (floorStep nf) i = readAt nf i := by
  have : ¬ i < 256 := by omega
  simp [floorStep, h', Config.ALPHABET, this]

/-- R98: slot `j` of the seeded heap holds leaf `j`. -/
theorem readAt_seedHeap {j : Nat} (h : j < 256) : readAt seedHeap j = BitVec.ofNat 9 j := by
  simp [seedHeap, h]

/-- What each slot holds after a swap of two slots of the heap. -/
theorem readAt_swapSlots (heap : Vector Handle 256) {i j : Nat} (hi : i < 256) (hj : j < 256) (k : Nat) :
    readAt (swapSlots heap i j) k =
      if k = j then readAt heap i else if k = i then readAt heap j else readAt heap k := by
  simp only [swapSlots, readAt_writeAt]
  by_cases h1 : j = k <;> by_cases h2 : i = k <;> simp [h1, h2, hi, hj, eq_comm]
  all_goals simp_all

/-- A swap of two slots swaps their frequencies. -/
theorem slotFreq_swapSlots (nf : Vector Freq 511) (heap : Vector Handle 256) {i j : Nat} (hi : i < 256) (hj : j < 256)
    (k : Nat) :
    slotFreq nf (swapSlots heap i j) k =
      if k = j then slotFreq nf heap i else if k = i then slotFreq nf heap j else slotFreq nf heap k := by
  unfold slotFreq
  rw [readAt_swapSlots heap hi hj]
  split
  · rfl
  · split <;> rfl

end Sys2Proof.Machine
end

