-- ==== Sys2Proof/Laws/State.lean ====
section
/-! SUPPORT. The fields of the state after each named update: for every update one simp lemma that gives all thirty
fields, so that no proof unfolds a record update. -/

namespace Sys2Proof.Machine

/-- R47: a hold changes `BUSY` only. -/
@[simp] theorem hold_fields (s : State) :
    (hold s).PHASE = s.PHASE ∧
    (hold s).ERR = s.ERR ∧
    (hold s).ERRINFO = s.ERRINFO ∧
    (hold s).BUSY = true ∧
    (hold s).CUR_CMD = s.CUR_CMD ∧
    (hold s).NFREQ = s.NFREQ ∧
    (hold s).NLEFT = s.NLEFT ∧
    (hold s).NRIGHT = s.NRIGHT ∧
    (hold s).HEAP = s.HEAP ∧
    (hold s).HSIZE = s.HSIZE ∧
    (hold s).MCOUNT = s.MCOUNT ∧
    (hold s).ROOT = s.ROOT ∧
    (hold s).CODE = s.CODE ∧
    (hold s).LEN = s.LEN ∧
    (hold s).WBUF = s.WBUF ∧
    (hold s).WIDX = s.WIDX ∧
    (hold s).RBUF = s.RBUF ∧
    (hold s).RIDX = s.RIDX ∧
    (hold s).EOF = s.EOF ∧
    (hold s).RD_OPEN = s.RD_OPEN ∧
    (hold s).END = s.END ∧
    (hold s).DSTATE = s.DSTATE ∧
    (hold s).DNODE = s.DNODE ∧
    (hold s).DSYM = s.DSYM ∧
    (hold s).DSYM_VALID = s.DSYM_VALID ∧
    (hold s).IN = s.IN ∧
    (hold s).OUT = s.OUT ∧
    (hold s).HOSTQ = s.HOSTQ ∧
    (hold s).HREADS = s.HREADS ∧
    (hold s).DRAWS = s.DRAWS :=
  ⟨rfl, rfl, rfl, rfl, rfl, rfl, rfl, rfl, rfl, rfl, rfl, rfl, rfl, rfl, rfl, rfl, rfl, rfl, rfl, rfl, rfl, rfl, rfl, rfl, rfl, rfl, rfl, rfl, rfl, rfl⟩

/-- R47: completion changes `BUSY` only. -/
@[simp] theorem complete_fields (s : State) :
    (complete s).PHASE = s.PHASE ∧
    (complete s).ERR = s.ERR ∧
    (complete s).ERRINFO = s.ERRINFO ∧
    (complete s).BUSY = false ∧
    (complete s).CUR_CMD = s.CUR_CMD ∧
    (complete s).NFREQ = s.NFREQ ∧
    (complete s).NLEFT = s.NLEFT ∧
    (complete s).NRIGHT = s.NRIGHT ∧
    (complete s).HEAP = s.HEAP ∧
    (complete s).HSIZE = s.HSIZE ∧
    (complete s).MCOUNT = s.MCOUNT ∧
    (complete s).ROOT = s.ROOT ∧
    (complete s).CODE = s.CODE ∧
    (complete s).LEN = s.LEN ∧
    (complete s).WBUF = s.WBUF ∧
    (complete s).WIDX = s.WIDX ∧
    (complete s).RBUF = s.RBUF ∧
    (complete s).RIDX = s.RIDX ∧
    (complete s).EOF = s.EOF ∧
    (complete s).RD_OPEN = s.RD_OPEN ∧
    (complete s).END = s.END ∧
    (complete s).DSTATE = s.DSTATE ∧
    (complete s).DNODE = s.DNODE ∧
    (complete s).DSYM = s.DSYM ∧
    (complete s).DSYM_VALID = s.DSYM_VALID ∧
    (complete s).IN = s.IN ∧
    (complete s).OUT = s.OUT ∧
    (complete s).HOSTQ = s.HOSTQ ∧
    (complete s).HREADS = s.HREADS ∧
    (complete s).DRAWS = s.DRAWS :=
  ⟨rfl, rfl, rfl, rfl, rfl, rfl, rfl, rfl, rfl, rfl, rfl, rfl, rfl, rfl, rfl, rfl, rfl, rfl, rfl, rfl, rfl, rfl, rfl, rfl, rfl, rfl, rfl, rfl, rfl, rfl⟩

/-- R46: a written byte changes `OUT` only. -/
@[simp] theorem outWrite_fields (s : State) (b : Byte) :
    (outWrite s b).PHASE = s.PHASE ∧
    (outWrite s b).ERR = s.ERR ∧
    (outWrite s b).ERRINFO = s.ERRINFO ∧
    (outWrite s b).BUSY = s.BUSY ∧
    (outWrite s b).CUR_CMD = s.CUR_CMD ∧
    (outWrite s b).NFREQ = s.NFREQ ∧
    (outWrite s b).NLEFT = s.NLEFT ∧
    (outWrite s b).NRIGHT = s.NRIGHT ∧
    (outWrite s b).HEAP = s.HEAP ∧
    (outWrite s b).HSIZE = s.HSIZE ∧
    (outWrite s b).MCOUNT = s.MCOUNT ∧
    (outWrite s b).ROOT = s.ROOT ∧
    (outWrite s b).CODE = s.CODE ∧
    (outWrite s b).LEN = s.LEN ∧
    (outWrite s b).WBUF = s.WBUF ∧
    (outWrite s b).WIDX = s.WIDX ∧
    (outWrite s b).RBUF = s.RBUF ∧
    (outWrite s b).RIDX = s.RIDX ∧
    (outWrite s b).EOF = s.EOF ∧
    (outWrite s b).RD_OPEN = s.RD_OPEN ∧
    (outWrite s b).END = s.END ∧
    (outWrite s b).DSTATE = s.DSTATE ∧
    (outWrite s b).DNODE = s.DNODE ∧
    (outWrite s b).DSYM = s.DSYM ∧
    (outWrite s b).DSYM_VALID = s.DSYM_VALID ∧
    (outWrite s b).IN = s.IN ∧
    (outWrite s b).OUT = s.OUT ++ [b] ∧
    (outWrite s b).HOSTQ = s.HOSTQ ∧
    (outWrite s b).HREADS = s.HREADS ∧
    (outWrite s b).DRAWS = s.DRAWS :=
  ⟨rfl, rfl, rfl, rfl, rfl, rfl, rfl, rfl, rfl, rfl, rfl, rfl, rfl, rfl, rfl, rfl, rfl, rfl, rfl, rfl, rfl, rfl, rfl, rfl, rfl, rfl, rfl, rfl, rfl, rfl⟩

/-- R160: the fault entry changes `ERR`, `ERRINFO`, `PHASE` and `BUSY` only. -/
@[simp] theorem raiseFault_fields (s : State) (c : ErrCode) (info : BitVec 16) :
    (raiseFault s c info).PHASE = .fault ∧
    (raiseFault s c info).ERR = c ∧
    (raiseFault s c info).ERRINFO = info ∧
    (raiseFault s c info).BUSY = false ∧
    (raiseFault s c info).CUR_CMD = s.CUR_CMD ∧
    (raiseFault s c info).NFREQ = s.NFREQ ∧
    (raiseFault s c info).NLEFT = s.NLEFT ∧
    (raiseFault s c info).NRIGHT = s.NRIGHT ∧
    (raiseFault s c info).HEAP = s.HEAP ∧
    (raiseFault s c info).HSIZE = s.HSIZE ∧
    (raiseFault s c info).MCOUNT = s.MCOUNT ∧
    (raiseFault s c info).ROOT = s.ROOT ∧
    (raiseFault s c info).CODE = s.CODE ∧
    (raiseFault s c info).LEN = s.LEN ∧
    (raiseFault s c info).WBUF = s.WBUF ∧
    (raiseFault s c info).WIDX = s.WIDX ∧
    (raiseFault s c info).RBUF = s.RBUF ∧
    (raiseFault s c info).RIDX = s.RIDX ∧
    (raiseFault s c info).EOF = s.EOF ∧
    (raiseFault s c info).RD_OPEN = s.RD_OPEN ∧
    (raiseFault s c info).END = s.END ∧
    (raiseFault s c info).DSTATE = s.DSTATE ∧
    (raiseFault s c info).DNODE = s.DNODE ∧
    (raiseFault s c info).DSYM = s.DSYM ∧
    (raiseFault s c info).DSYM_VALID = s.DSYM_VALID ∧
    (raiseFault s c info).IN = s.IN ∧
    (raiseFault s c info).OUT = s.OUT ∧
    (raiseFault s c info).HOSTQ = s.HOSTQ ∧
    (raiseFault s c info).HREADS = s.HREADS ∧
    (raiseFault s c info).DRAWS = s.DRAWS :=
  ⟨rfl, rfl, rfl, rfl, rfl, rfl, rfl, rfl, rfl, rfl, rfl, rfl, rfl, rfl, rfl, rfl, rfl, rfl, rfl, rfl, rfl, rfl, rfl, rfl, rfl, rfl, rfl, rfl, rfl, rfl⟩

/-- R81, R180: the reset values, with `IN`, `OUT` and the host's fields kept. -/
@[simp] theorem toReset_fields (s : State) :
    (toReset s).PHASE = .train ∧
    (toReset s).ERR = .none ∧
    (toReset s).ERRINFO = 0#16 ∧
    (toReset s).BUSY = false ∧
    (toReset s).CUR_CMD = Config.freeCurCmd s.DRAWS ∧
    (toReset s).NFREQ = resetNfreq s.DRAWS ∧
    (toReset s).NLEFT = tabulate 255 (Config.freeNleft s.DRAWS) ∧
    (toReset s).NRIGHT = tabulate 255 (Config.freeNright s.DRAWS) ∧
    (toReset s).HEAP = tabulate 256 (Config.freeHeap s.DRAWS) ∧
    (toReset s).HSIZE = 0#9 ∧
    (toReset s).MCOUNT = 0#9 ∧
    (toReset s).ROOT = 0#9 ∧
    (toReset s).CODE = tabulate 256 (Config.freeCode s.DRAWS) ∧
    (toReset s).LEN = tabulate 256 (Config.freeLen s.DRAWS) ∧
    (toReset s).WBUF = 0#8 ∧
    (toReset s).WIDX = 0#3 ∧
    (toReset s).RBUF = 0#8 ∧
    (toReset s).RIDX = 0#3 ∧
    (toReset s).EOF = false ∧
    (toReset s).RD_OPEN = false ∧
    (toReset s).END = false ∧
    (toReset s).DSTATE = .atRoot ∧
    (toReset s).DNODE = 0#9 ∧
    (toReset s).DSYM = 0#8 ∧
    (toReset s).DSYM_VALID = false ∧
    (toReset s).IN = s.IN ∧
    (toReset s).OUT = s.OUT ∧
    (toReset s).HOSTQ = s.HOSTQ ∧
    (toReset s).HREADS = s.HREADS ∧
    (toReset s).DRAWS = s.DRAWS + 1 :=
  ⟨rfl, rfl, rfl, rfl, rfl, rfl, rfl, rfl, rfl, rfl, rfl, rfl, rfl, rfl, rfl, rfl, rfl, rfl, rfl, rfl, rfl, rfl, rfl, rfl, rfl, rfl, rfl, rfl, rfl, rfl⟩

/-- R82: a count changes `NFREQ` only. -/
@[simp] theorem countByte_fields (s : State) (b : Byte) :
    (countByte b s).PHASE = s.PHASE ∧
    (countByte b s).ERR = s.ERR ∧
    (countByte b s).ERRINFO = s.ERRINFO ∧
    (countByte b s).BUSY = s.BUSY ∧
    (countByte b s).CUR_CMD = s.CUR_CMD ∧
    (countByte b s).NFREQ = writeAt s.NFREQ (leafOf b).toNat (s.nfreq (leafOf b) + 1#32) ∧
    (countByte b s).NLEFT = s.NLEFT ∧
    (countByte b s).NRIGHT = s.NRIGHT ∧
    (countByte b s).HEAP = s.HEAP ∧
    (countByte b s).HSIZE = s.HSIZE ∧
    (countByte b s).MCOUNT = s.MCOUNT ∧
    (countByte b s).ROOT = s.ROOT ∧
    (countByte b s).CODE = s.CODE ∧
    (countByte b s).LEN = s.LEN ∧
    (countByte b s).WBUF = s.WBUF ∧
    (countByte b s).WIDX = s.WIDX ∧
    (countByte b s).RBUF = s.RBUF ∧
    (countByte b s).RIDX = s.RIDX ∧
    (countByte b s).EOF = s.EOF ∧
    (countByte b s).RD_OPEN = s.RD_OPEN ∧
    (countByte b s).END = s.END ∧
    (countByte b s).DSTATE = s.DSTATE ∧
    (countByte b s).DNODE = s.DNODE ∧
    (countByte b s).DSYM = s.DSYM ∧
    (countByte b s).DSYM_VALID = s.DSYM_VALID ∧
    (countByte b s).IN = s.IN ∧
    (countByte b s).OUT = s.OUT ∧
    (countByte b s).HOSTQ = s.HOSTQ ∧
    (countByte b s).HREADS = s.HREADS ∧
    (countByte b s).DRAWS = s.DRAWS :=
  ⟨rfl, rfl, rfl, rfl, rfl, rfl, rfl, rfl, rfl, rfl, rfl, rfl, rfl, rfl, rfl, rfl, rfl, rfl, rfl, rfl, rfl, rfl, rfl, rfl, rfl, rfl, rfl, rfl, rfl, rfl⟩

/-- R97: an insert changes `HEAP` and `HSIZE` only. -/
@[simp] theorem insertNode_fields (s : State) (x : Handle) :
    (insertNode x s).PHASE = s.PHASE ∧
    (insertNode x s).ERR = s.ERR ∧
    (insertNode x s).ERRINFO = s.ERRINFO ∧
    (insertNode x s).BUSY = s.BUSY ∧
    (insertNode x s).CUR_CMD = s.CUR_CMD ∧
    (insertNode x s).NFREQ = s.NFREQ ∧
    (insertNode x s).NLEFT = s.NLEFT ∧
    (insertNode x s).NRIGHT = s.NRIGHT ∧
    (insertNode x s).HEAP = siftUp s.NFREQ s.HSIZE.toNat (writeAt s.HEAP s.HSIZE.toNat x) ∧
    (insertNode x s).HSIZE = s.HSIZE + 1#9 ∧
    (insertNode x s).MCOUNT = s.MCOUNT ∧
    (insertNode x s).ROOT = s.ROOT ∧
    (insertNode x s).CODE = s.CODE ∧
    (insertNode x s).LEN = s.LEN ∧
    (insertNode x s).WBUF = s.WBUF ∧
    (insertNode x s).WIDX = s.WIDX ∧
    (insertNode x s).RBUF = s.RBUF ∧
    (insertNode x s).RIDX = s.RIDX ∧
    (insertNode x s).EOF = s.EOF ∧
    (insertNode x s).RD_OPEN = s.RD_OPEN ∧
    (insertNode x s).END = s.END ∧
    (insertNode x s).DSTATE = s.DSTATE ∧
    (insertNode x s).DNODE = s.DNODE ∧
    (insertNode x s).DSYM = s.DSYM ∧
    (insertNode x s).DSYM_VALID = s.DSYM_VALID ∧
    (insertNode x s).IN = s.IN ∧
    (insertNode x s).OUT = s.OUT ∧
    (insertNode x s).HOSTQ = s.HOSTQ ∧
    (insertNode x s).HREADS = s.HREADS ∧
    (insertNode x s).DRAWS = s.DRAWS :=
  ⟨rfl, rfl, rfl, rfl, rfl, rfl, rfl, rfl, rfl, rfl, rfl, rfl, rfl, rfl, rfl, rfl, rfl, rfl, rfl, rfl, rfl, rfl, rfl, rfl, rfl, rfl, rfl, rfl, rfl, rfl⟩

/-- R98: heapify changes `HEAP` and `HSIZE` only. -/
@[simp] theorem heapify_fields (s : State) :
    (heapify s).PHASE = s.PHASE ∧
    (heapify s).ERR = s.ERR ∧
    (heapify s).ERRINFO = s.ERRINFO ∧
    (heapify s).BUSY = s.BUSY ∧
    (heapify s).CUR_CMD = s.CUR_CMD ∧
    (heapify s).NFREQ = s.NFREQ ∧
    (heapify s).NLEFT = s.NLEFT ∧
    (heapify s).NRIGHT = s.NRIGHT ∧
    (heapify s).HEAP = heapifyFrom s.NFREQ (Config.ALPHABET / 2) seedHeap ∧
    (heapify s).HSIZE = 256#9 ∧
    (heapify s).MCOUNT = s.MCOUNT ∧
    (heapify s).ROOT = s.ROOT ∧
    (heapify s).CODE = s.CODE ∧
    (heapify s).LEN = s.LEN ∧
    (heapify s).WBUF = s.WBUF ∧
    (heapify s).WIDX = s.WIDX ∧
    (heapify s).RBUF = s.RBUF ∧
    (heapify s).RIDX = s.RIDX ∧
    (heapify s).EOF = s.EOF ∧
    (heapify s).RD_OPEN = s.RD_OPEN ∧
    (heapify s).END = s.END ∧
    (heapify s).DSTATE = s.DSTATE ∧
    (heapify s).DNODE = s.DNODE ∧
    (heapify s).DSYM = s.DSYM ∧
    (heapify s).DSYM_VALID = s.DSYM_VALID ∧
    (heapify s).IN = s.IN ∧
    (heapify s).OUT = s.OUT ∧
    (heapify s).HOSTQ = s.HOSTQ ∧
    (heapify s).HREADS = s.HREADS ∧
    (heapify s).DRAWS = s.DRAWS := by
  simp only [heapify, and_self]

/-- R95: an extract-min changes `HEAP` and `HSIZE` only. -/
@[simp] theorem extractMin_fields (s : State) :
    ((extractMin s).2).PHASE = s.PHASE ∧
    ((extractMin s).2).ERR = s.ERR ∧
    ((extractMin s).2).ERRINFO = s.ERRINFO ∧
    ((extractMin s).2).BUSY = s.BUSY ∧
    ((extractMin s).2).CUR_CMD = s.CUR_CMD ∧
    ((extractMin s).2).NFREQ = s.NFREQ ∧
    ((extractMin s).2).NLEFT = s.NLEFT ∧
    ((extractMin s).2).NRIGHT = s.NRIGHT ∧
    ((extractMin s).2).HEAP = (if 0 < (s.HSIZE - 1#9).toNat then
      siftDown s.NFREQ (s.HSIZE - 1#9).toNat 0 (writeAt s.HEAP 0 (readAt s.HEAP (s.HSIZE - 1#9).toNat))
      else writeAt s.HEAP 0 (readAt s.HEAP (s.HSIZE - 1#9).toNat)) ∧
    ((extractMin s).2).HSIZE = s.HSIZE - 1#9 ∧
    ((extractMin s).2).MCOUNT = s.MCOUNT ∧
    ((extractMin s).2).ROOT = s.ROOT ∧
    ((extractMin s).2).CODE = s.CODE ∧
    ((extractMin s).2).LEN = s.LEN ∧
    ((extractMin s).2).WBUF = s.WBUF ∧
    ((extractMin s).2).WIDX = s.WIDX ∧
    ((extractMin s).2).RBUF = s.RBUF ∧
    ((extractMin s).2).RIDX = s.RIDX ∧
    ((extractMin s).2).EOF = s.EOF ∧
    ((extractMin s).2).RD_OPEN = s.RD_OPEN ∧
    ((extractMin s).2).END = s.END ∧
    ((extractMin s).2).DSTATE = s.DSTATE ∧
    ((extractMin s).2).DNODE = s.DNODE ∧
    ((extractMin s).2).DSYM = s.DSYM ∧
    ((extractMin s).2).DSYM_VALID = s.DSYM_VALID ∧
    ((extractMin s).2).IN = s.IN ∧
    ((extractMin s).2).OUT = s.OUT ∧
    ((extractMin s).2).HOSTQ = s.HOSTQ ∧
    ((extractMin s).2).HREADS = s.HREADS ∧
    ((extractMin s).2).DRAWS = s.DRAWS :=
  ⟨rfl, rfl, rfl, rfl, rfl, rfl, rfl, rfl, rfl, rfl, rfl, rfl, rfl, rfl, rfl, rfl, rfl, rfl, rfl, rfl, rfl, rfl, rfl, rfl, rfl, rfl, rfl, rfl, rfl, rfl⟩

/-- R110: the code table is written and nothing else. -/
@[simp] theorem withCodeTable_fields (s : State) (t : CodeTable) :
    (s.withCodeTable t).PHASE = s.PHASE ∧
    (s.withCodeTable t).ERR = s.ERR ∧
    (s.withCodeTable t).ERRINFO = s.ERRINFO ∧
    (s.withCodeTable t).BUSY = s.BUSY ∧
    (s.withCodeTable t).CUR_CMD = s.CUR_CMD ∧
    (s.withCodeTable t).NFREQ = s.NFREQ ∧
    (s.withCodeTable t).NLEFT = s.NLEFT ∧
    (s.withCodeTable t).NRIGHT = s.NRIGHT ∧
    (s.withCodeTable t).HEAP = s.HEAP ∧
    (s.withCodeTable t).HSIZE = s.HSIZE ∧
    (s.withCodeTable t).MCOUNT = s.MCOUNT ∧
    (s.withCodeTable t).ROOT = s.ROOT ∧
    (s.withCodeTable t).CODE = t.CODE ∧
    (s.withCodeTable t).LEN = t.LEN ∧
    (s.withCodeTable t).WBUF = s.WBUF ∧
    (s.withCodeTable t).WIDX = s.WIDX ∧
    (s.withCodeTable t).RBUF = s.RBUF ∧
    (s.withCodeTable t).RIDX = s.RIDX ∧
    (s.withCodeTable t).EOF = s.EOF ∧
    (s.withCodeTable t).RD_OPEN = s.RD_OPEN ∧
    (s.withCodeTable t).END = s.END ∧
    (s.withCodeTable t).DSTATE = s.DSTATE ∧
    (s.withCodeTable t).DNODE = s.DNODE ∧
    (s.withCodeTable t).DSYM = s.DSYM ∧
    (s.withCodeTable t).DSYM_VALID = s.DSYM_VALID ∧
    (s.withCodeTable t).IN = s.IN ∧
    (s.withCodeTable t).OUT = s.OUT ∧
    (s.withCodeTable t).HOSTQ = s.HOSTQ ∧
    (s.withCodeTable t).HREADS = s.HREADS ∧
    (s.withCodeTable t).DRAWS = s.DRAWS :=
  ⟨rfl, rfl, rfl, rfl, rfl, rfl, rfl, rfl, rfl, rfl, rfl, rfl, rfl, rfl, rfl, rfl, rfl, rfl, rfl, rfl, rfl, rfl, rfl, rfl, rfl, rfl, rfl, rfl, rfl, rfl⟩

/-- R140: what DOPEN writes, `EOF` and `IN` apart. -/
@[simp] theorem openReader_fields (s : State) (b : Byte) :
    (openReader b s).PHASE = s.PHASE ∧
    (openReader b s).ERR = s.ERR ∧
    (openReader b s).ERRINFO = s.ERRINFO ∧
    (openReader b s).BUSY = false ∧
    (openReader b s).CUR_CMD = s.CUR_CMD ∧
    (openReader b s).NFREQ = s.NFREQ ∧
    (openReader b s).NLEFT = s.NLEFT ∧
    (openReader b s).NRIGHT = s.NRIGHT ∧
    (openReader b s).HEAP = s.HEAP ∧
    (openReader b s).HSIZE = s.HSIZE ∧
    (openReader b s).MCOUNT = s.MCOUNT ∧
    (openReader b s).ROOT = s.ROOT ∧
    (openReader b s).CODE = s.CODE ∧
    (openReader b s).LEN = s.LEN ∧
    (openReader b s).WBUF = s.WBUF ∧
    (openReader b s).WIDX = s.WIDX ∧
    (openReader b s).RBUF = b ∧
    (openReader b s).RIDX = 0#3 ∧
    (openReader b s).EOF = s.EOF ∧
    (openReader b s).RD_OPEN = true ∧
    (openReader b s).END = false ∧
    (openReader b s).DSTATE = .atRoot ∧
    (openReader b s).DNODE = s.DNODE ∧
    (openReader b s).DSYM = s.DSYM ∧
    (openReader b s).DSYM_VALID = false ∧
    (openReader b s).IN = s.IN ∧
    (openReader b s).OUT = s.OUT ∧
    (openReader b s).HOSTQ = s.HOSTQ ∧
    (openReader b s).HREADS = s.HREADS ∧
    (openReader b s).DRAWS = s.DRAWS :=
  ⟨rfl, rfl, rfl, rfl, rfl, rfl, rfl, rfl, rfl, rfl, rfl, rfl, rfl, rfl, rfl, rfl, rfl, rfl, rfl, rfl, rfl, rfl, rfl, rfl, rfl, rfl, rfl, rfl, rfl, rfl⟩

/-- R142: what the end of the stream writes. -/
@[simp] theorem endOfStream_fields (s : State) :
    (endOfStream s).PHASE = s.PHASE ∧
    (endOfStream s).ERR = s.ERR ∧
    (endOfStream s).ERRINFO = s.ERRINFO ∧
    (endOfStream s).BUSY = false ∧
    (endOfStream s).CUR_CMD = s.CUR_CMD ∧
    (endOfStream s).NFREQ = s.NFREQ ∧
    (endOfStream s).NLEFT = s.NLEFT ∧
    (endOfStream s).NRIGHT = s.NRIGHT ∧
    (endOfStream s).HEAP = s.HEAP ∧
    (endOfStream s).HSIZE = s.HSIZE ∧
    (endOfStream s).MCOUNT = s.MCOUNT ∧
    (endOfStream s).ROOT = s.ROOT ∧
    (endOfStream s).CODE = s.CODE ∧
    (endOfStream s).LEN = s.LEN ∧
    (endOfStream s).WBUF = s.WBUF ∧
    (endOfStream s).WIDX = s.WIDX ∧
    (endOfStream s).RBUF = s.RBUF ∧
    (endOfStream s).RIDX = s.RIDX ∧
    (endOfStream s).EOF = s.EOF ∧
    (endOfStream s).RD_OPEN = s.RD_OPEN ∧
    (endOfStream s).END = true ∧
    (endOfStream s).DSTATE = s.DSTATE ∧
    (endOfStream s).DNODE = s.DNODE ∧
    (endOfStream s).DSYM = s.DSYM ∧
    (endOfStream s).DSYM_VALID = false ∧
    (endOfStream s).IN = s.IN ∧
    (endOfStream s).OUT = s.OUT ∧
    (endOfStream s).HOSTQ = s.HOSTQ ∧
    (endOfStream s).HREADS = s.HREADS ∧
    (endOfStream s).DRAWS = s.DRAWS :=
  ⟨rfl, rfl, rfl, rfl, rfl, rfl, rfl, rfl, rfl, rfl, rfl, rfl, rfl, rfl, rfl, rfl, rfl, rfl, rfl, rfl, rfl, rfl, rfl, rfl, rfl, rfl, rfl, rfl, rfl, rfl⟩

/-- R142: what a decoded symbol writes. -/
@[simp] theorem emitSymbol_fields (s : State) (b : Byte) :
    (emitSymbol b s).PHASE = s.PHASE ∧
    (emitSymbol b s).ERR = s.ERR ∧
    (emitSymbol b s).ERRINFO = s.ERRINFO ∧
    (emitSymbol b s).BUSY = false ∧
    (emitSymbol b s).CUR_CMD = s.CUR_CMD ∧
    (emitSymbol b s).NFREQ = s.NFREQ ∧
    (emitSymbol b s).NLEFT = s.NLEFT ∧
    (emitSymbol b s).NRIGHT = s.NRIGHT ∧
    (emitSymbol b s).HEAP = s.HEAP ∧
    (emitSymbol b s).HSIZE = s.HSIZE ∧
    (emitSymbol b s).MCOUNT = s.MCOUNT ∧
    (emitSymbol b s).ROOT = s.ROOT ∧
    (emitSymbol b s).CODE = s.CODE ∧
    (emitSymbol b s).LEN = s.LEN ∧
    (emitSymbol b s).WBUF = s.WBUF ∧
    (emitSymbol b s).WIDX = s.WIDX ∧
    (emitSymbol b s).RBUF = s.RBUF ∧
    (emitSymbol b s).RIDX = s.RIDX ∧
    (emitSymbol b s).EOF = s.EOF ∧
    (emitSymbol b s).RD_OPEN = s.RD_OPEN ∧
    (emitSymbol b s).END = s.END ∧
    (emitSymbol b s).DSTATE = .atRoot ∧
    (emitSymbol b s).DNODE = s.DNODE ∧
    (emitSymbol b s).DSYM = b ∧
    (emitSymbol b s).DSYM_VALID = true ∧
    (emitSymbol b s).IN = s.IN ∧
    (emitSymbol b s).OUT = s.OUT ++ [b] ∧
    (emitSymbol b s).HOSTQ = s.HOSTQ ∧
    (emitSymbol b s).HREADS = s.HREADS ∧
    (emitSymbol b s).DRAWS = s.DRAWS :=
  ⟨rfl, rfl, rfl, rfl, rfl, rfl, rfl, rfl, rfl, rfl, rfl, rfl, rfl, rfl, rfl, rfl, rfl, rfl, rfl, rfl, rfl, rfl, rfl, rfl, rfl, rfl, rfl, rfl, rfl, rfl⟩

/-- The presented word stands at the head of the host's actions. -/
@[simp] theorem presentWord_fields (s : State) (w : CmdWord) :
    (presentWord w s).PHASE = s.PHASE ∧
    (presentWord w s).ERR = s.ERR ∧
    (presentWord w s).ERRINFO = s.ERRINFO ∧
    (presentWord w s).BUSY = false ∧
    (presentWord w s).CUR_CMD = s.CUR_CMD ∧
    (presentWord w s).NFREQ = s.NFREQ ∧
    (presentWord w s).NLEFT = s.NLEFT ∧
    (presentWord w s).NRIGHT = s.NRIGHT ∧
    (presentWord w s).HEAP = s.HEAP ∧
    (presentWord w s).HSIZE = s.HSIZE ∧
    (presentWord w s).MCOUNT = s.MCOUNT ∧
    (presentWord w s).ROOT = s.ROOT ∧
    (presentWord w s).CODE = s.CODE ∧
    (presentWord w s).LEN = s.LEN ∧
    (presentWord w s).WBUF = s.WBUF ∧
    (presentWord w s).WIDX = s.WIDX ∧
    (presentWord w s).RBUF = s.RBUF ∧
    (presentWord w s).RIDX = s.RIDX ∧
    (presentWord w s).EOF = s.EOF ∧
    (presentWord w s).RD_OPEN = s.RD_OPEN ∧
    (presentWord w s).END = s.END ∧
    (presentWord w s).DSTATE = s.DSTATE ∧
    (presentWord w s).DNODE = s.DNODE ∧
    (presentWord w s).DSYM = s.DSYM ∧
    (presentWord w s).DSYM_VALID = s.DSYM_VALID ∧
    (presentWord w s).IN = s.IN ∧
    (presentWord w s).OUT = s.OUT ∧
    (presentWord w s).HOSTQ = .write w :: s.HOSTQ ∧
    (presentWord w s).HREADS = s.HREADS ∧
    (presentWord w s).DRAWS = s.DRAWS :=
  ⟨rfl, rfl, rfl, rfl, rfl, rfl, rfl, rfl, rfl, rfl, rfl, rfl, rfl, rfl, rfl, rfl, rfl, rfl, rfl, rfl, rfl, rfl, rfl, rfl, rfl, rfl, rfl, rfl, rfl, rfl⟩

/-- U3: retiring a command changes `CUR_CMD` and `DRAWS` only, and nothing while a command holds. -/
theorem retire_of_busy {s : State} (h : s.BUSY = true) : retire s = s := by simp [retire, h]

/-- U3: once no command is held, `CUR_CMD` is a fresh draw. -/
theorem retire_of_idle {s : State} (h : s.BUSY = false) :
    retire s = { s with CUR_CMD := Config.freeCurCmd s.DRAWS, DRAWS := s.DRAWS + 1 } := by simp [retire, h]

/-- U3: every field but `CUR_CMD` and `DRAWS` is kept. -/
@[simp] theorem retire_fields (s : State) :
    (retire s).PHASE = s.PHASE ∧
    (retire s).ERR = s.ERR ∧
    (retire s).ERRINFO = s.ERRINFO ∧
    (retire s).BUSY = s.BUSY ∧
    (retire s).NFREQ = s.NFREQ ∧
    (retire s).NLEFT = s.NLEFT ∧
    (retire s).NRIGHT = s.NRIGHT ∧
    (retire s).HEAP = s.HEAP ∧
    (retire s).HSIZE = s.HSIZE ∧
    (retire s).MCOUNT = s.MCOUNT ∧
    (retire s).ROOT = s.ROOT ∧
    (retire s).CODE = s.CODE ∧
    (retire s).LEN = s.LEN ∧
    (retire s).WBUF = s.WBUF ∧
    (retire s).WIDX = s.WIDX ∧
    (retire s).RBUF = s.RBUF ∧
    (retire s).RIDX = s.RIDX ∧
    (retire s).EOF = s.EOF ∧
    (retire s).RD_OPEN = s.RD_OPEN ∧
    (retire s).END = s.END ∧
    (retire s).DSTATE = s.DSTATE ∧
    (retire s).DNODE = s.DNODE ∧
    (retire s).DSYM = s.DSYM ∧
    (retire s).DSYM_VALID = s.DSYM_VALID ∧
    (retire s).IN = s.IN ∧
    (retire s).OUT = s.OUT ∧
    (retire s).HOSTQ = s.HOSTQ ∧
    (retire s).HREADS = s.HREADS := by
  cases h : s.BUSY <;> simp [retire, h]

end Sys2Proof.Machine
end

