-- ==== Sys2Proof/Laws/Ops.lean ====
section
/-! SUPPORT. For each shared operation, once, what it can do: the dispatch checks, the streams, the writer, the
builder's steps, the descent loop, the port and the step. Later proofs cite these instead of unfolding. -/

namespace Sys2Proof.Machine

/-! ## The dispatch checks (R64, R65) -/

/-- Phase FAULT: the command is ignored. -/
theorem guarded_of_fault {i : Instr} {s : State} {run : State → Outcome} (h : s.PHASE = .fault) :
    guarded i s run = .next s := by simp [guarded, h]

/-- The phase admits the command: it runs. -/
theorem guarded_of_ok {i : Instr} {s : State} {run : State → Outcome} (h : s.PHASE ≠ .fault)
    (hok : phaseOk i s.PHASE s.RD_OPEN = true) : guarded i s run = run s := by simp [guarded, h, hok]

/-- The phase does not admit the command: `SEQUENCE`. -/
theorem guarded_of_bad {i : Instr} {s : State} {run : State → Outcome} (h : s.PHASE ≠ .fault)
    (hok : phaseOk i s.PHASE s.RD_OPEN = false) :
    guarded i s run = .next (raiseFault s .sequence (sequenceInfo s.PHASE i)) := by simp [guarded, h, hok]

/-- The three ways through the checks. -/
theorem guarded_cases {i : Instr} {s : State} {run : State → Outcome} {o : Outcome} (h : guarded i s run = o) :
    (s.PHASE = .fault ∧ o = .next s) ∨
    (s.PHASE ≠ .fault ∧ phaseOk i s.PHASE s.RD_OPEN = true ∧ o = run s) ∨
    (s.PHASE ≠ .fault ∧ phaseOk i s.PHASE s.RD_OPEN = false ∧
      o = .next (raiseFault s .sequence (sequenceInfo s.PHASE i))) := by
  subst h
  by_cases h : s.PHASE = .fault
  · exact .inl ⟨h, guarded_of_fault h⟩
  · cases hok : phaseOk i s.PHASE s.RD_OPEN
    · exact .inr (.inr ⟨h, rfl, guarded_of_bad h hok⟩)
    · exact .inr (.inl ⟨h, rfl, guarded_of_ok h hok⟩)

/-! ## Agreement of states is an equivalence where proofs use it -/

theorem sameTree_refl (s : State) : sameTree s s := by simp [sameTree]
theorem sameCodes_refl (s : State) : sameCodes s s := by simp [sameCodes]
theorem sameWriter_refl (s : State) : sameWriter s s := by simp [sameWriter]
theorem sameReader_refl (s : State) : sameReader s s := by simp [sameReader]
theorem samePhase_refl (s : State) : samePhase s s := by simp [samePhase]
theorem sameStreams_refl (s : State) : sameStreams s s := by simp [sameStreams]
theorem sameHost_refl (s : State) : sameHost s s := by simp [sameHost]

theorem sameTree_trans {s t u : State} (h : sameTree s t) (g : sameTree t u) : sameTree s u := by
  simp_all [sameTree]
theorem sameCodes_trans {s t u : State} (h : sameCodes s t) (g : sameCodes t u) : sameCodes s u := by
  simp_all [sameCodes]
theorem sameWriter_trans {s t u : State} (h : sameWriter s t) (g : sameWriter t u) : sameWriter s u := by
  simp_all [sameWriter]
theorem samePhase_trans {s t u : State} (h : samePhase s t) (g : samePhase t u) : samePhase s u := by
  simp_all [samePhase]
theorem sameHost_trans {s t u : State} (h : sameHost s t) (g : sameHost t u) : sameHost s u := by
  simp_all [sameHost]

/-- The child links of two states with the same tree are the same. -/
theorem child?_of_sameTree {s t : State} (h : sameTree s t) (n : Handle) (b : Bool) : t.child? n b = s.child? n b := by
  obtain ⟨_, hl, hr, _⟩ := h
  simp [State.child?, State.nleft, State.nright, hl, hr]

/-- So are the paths. -/
theorem follow_of_sameTree {s t : State} (h : sameTree s t) (n : Handle) (p : List Bool) :
    follow t n p = follow s n p := by
  induction p generalizing n with
  | nil => rfl
  | cons b p ih => simp only [follow, child?_of_sameTree h, ih]

/-! ## Paths -/

/-- A path after a path. -/
theorem follow_append (s : State) (n : Handle) (p q : List Bool) :
    follow s n (p ++ q) = (follow s n p).bind fun m => follow s m q := by
  induction p generalizing n with
  | nil => rfl
  | cons b p ih =>
    simp only [List.cons_append, follow]
    cases s.child? n b with
    | none => rfl
    | some c => exact ih c

/-- A leaf has no child. -/
theorem child?_leaf (s : State) {n : Handle} (h : n.toNat < 256) (b : Bool) : s.child? n b = none := by
  have : ¬ 256 ≤ n.toNat := by omega
  simp [State.child?, isInternal, Config.ALPHABET, this]

/-- An internal node has both children. -/
theorem child?_internal (s : State) {n : Handle} (h : 256 ≤ n.toNat) (h' : n.toNat < 511) (b : Bool) :
    s.child? n b = some (if b then s.nright n else s.nleft n) := by
  simp [State.child?, isInternal, Config.ALPHABET, Config.NODES, h, h']

/-- No path leaves a leaf. -/
theorem follow_leaf (s : State) {n : Handle} (h : n.toNat < 256) (p : List Bool) :
    follow s n p = if p = [] then some n else none := by
  cases p with
  | nil => rfl
  | cons b p => simp [follow, child?_leaf s h]

/-- The handle of a byte is a leaf. -/
@[simp] theorem leafOf_toNat (b : Byte) : (leafOf b).toNat = b.toNat := by
  simp [leafOf]
  omega

/-! ## The streams (R45, R137) -/

/-- The ways a read attempt can end. -/
theorem inRead_cases (s : State) :
    (s.EOF = true ∧ inRead s = some (Config.READ_FILL, s)) ∨
    (s.EOF = false ∧ s.IN = [] ∧ inRead s = none) ∨
    (∃ b rest, s.EOF = false ∧ s.IN = .byte b :: rest ∧ inRead s = some (b, { s with IN := rest })) ∨
    (∃ rest, s.EOF = false ∧ s.IN = .endMark :: rest ∧
      inRead s = some (Config.READ_FILL, { s with IN := rest, EOF := true })) := by
  cases he : s.EOF
  · cases hi : s.IN with
    | nil => exact .inr (.inl ⟨rfl, rfl, by simp [inRead, he, hi]⟩)
    | cons t rest =>
      cases t with
      | byte b => exact .inr (.inr (.inl ⟨b, rest, rfl, rfl, by simp [inRead, he, hi]⟩))
      | endMark => exact .inr (.inr (.inr ⟨rest, rfl, rfl, by simp [inRead, he, hi]⟩))
  · exact .inl ⟨rfl, by simp [inRead, he]⟩

/-- A read attempt changes `IN` and `EOF` only. -/
theorem inRead_frame {s t : State} {b : Byte} (h : inRead s = some (b, t)) :
    sameTree s t ∧ sameCodes s t ∧ sameWriter s t ∧ samePhase s t ∧ sameHost s t ∧ t.OUT = s.OUT ∧ t.BUSY = s.BUSY ∧
      t.RD_OPEN = s.RD_OPEN ∧ t.END = s.END ∧ t.DSTATE = s.DSTATE ∧ t.DNODE = s.DNODE ∧ t.DSYM = s.DSYM ∧
      t.DSYM_VALID = s.DSYM_VALID ∧ t.RBUF = s.RBUF ∧ t.RIDX = s.RIDX := by
  obtain ⟨_, e⟩ | ⟨_, _, e⟩ | ⟨_, _, _, _, e⟩ | ⟨_, _, _, e⟩ := inRead_cases s <;> rw [e] at h
  · cases h; simp [sameTree, sameCodes, sameWriter, samePhase, sameHost]
  · cases h
  · cases h; simp [sameTree, sameCodes, sameWriter, samePhase, sameHost]
  · cases h; simp [sameTree, sameCodes, sameWriter, samePhase, sameHost]

/-- R137: a bit read inside the byte. -/
theorem readBit_inside {s : State} (h : s.RIDX ≠ 7#3) :
    readBit s = some (s.RBUF.getLsbD s.RIDX.toNat, { s with RIDX := s.RIDX + 1#3 }) := by simp [readBit, h]

/-- R137: the last bit of the byte, with the load of the next. -/
theorem readBit_last {s : State} (h : s.RIDX = 7#3) :
    readBit s = (inRead s).map fun p => (s.RBUF.getLsbD 7, { p.2 with RBUF := p.1, RIDX := 0#3 }) := by
  simp only [readBit, h, if_true]
  cases inRead s <;> rfl

/-- R137: `read_bit` holds exactly when the load would. -/
theorem readBit_eq_none (s : State) : readBit s = none ↔ s.RIDX = 7#3 ∧ s.EOF = false ∧ s.IN = [] := by
  by_cases h : s.RIDX = 7#3
  · rw [readBit_last h]
    obtain ⟨e, q⟩ | ⟨e, i, q⟩ | ⟨b, r, e, i, q⟩ | ⟨r, e, i, q⟩ := inRead_cases s <;> simp [q, h, e]
    · exact i
    · simp [i]
    · simp [i]
  · simp [readBit_inside h, h]

/-- A read bit changes `RBUF`, `RIDX`, `EOF` and `IN` only. -/
theorem readBit_frame {s t : State} {r : Bool} (h : readBit s = some (r, t)) :
    sameTree s t ∧ sameCodes s t ∧ sameWriter s t ∧ samePhase s t ∧ sameHost s t ∧ t.OUT = s.OUT ∧ t.BUSY = s.BUSY ∧
      t.RD_OPEN = s.RD_OPEN ∧ t.END = s.END ∧ t.DSTATE = s.DSTATE ∧ t.DNODE = s.DNODE ∧ t.DSYM = s.DSYM ∧
      t.DSYM_VALID = s.DSYM_VALID := by
  by_cases h7 : s.RIDX = 7#3
  · rw [readBit_last h7] at h
    cases hr : inRead s with
    | none => simp [hr] at h
    | some p =>
      obtain ⟨b, u⟩ := p
      have f := inRead_frame hr
      simp only [hr, Option.map_some, Option.some.injEq, Prod.mk.injEq] at h
      obtain ⟨_, rfl⟩ := h
      simp_all [sameTree, sameCodes, sameWriter, samePhase, sameHost]
  · rw [readBit_inside h7] at h
    cases h
    simp [sameTree, sameCodes, sameWriter, samePhase, sameHost]

/-! ## The writer (R120) -/

/-- A written bit changes `WBUF`, `WIDX` and `OUT` only. -/
theorem writeBit_frame (x : Bool) (s : State) :
    sameTree s (writeBit x s) ∧ sameCodes s (writeBit x s) ∧ sameReader s (writeBit x s) ∧ samePhase s (writeBit x s) ∧
      sameHost s (writeBit x s) ∧ (writeBit x s).IN = s.IN ∧ (writeBit x s).BUSY = s.BUSY := by
  by_cases h : s.WIDX = 7#3 <;>
    simp [writeBit, h, sameTree, sameCodes, sameReader, samePhase, sameHost]

/-- So do written bits. -/
theorem writeBits_frame (bits : List Bool) (s : State) :
    sameTree s (writeBits bits s) ∧ sameCodes s (writeBits bits s) ∧ sameReader s (writeBits bits s) ∧
      samePhase s (writeBits bits s) ∧ sameHost s (writeBits bits s) ∧ (writeBits bits s).IN = s.IN ∧
      (writeBits bits s).BUSY = s.BUSY := by
  induction bits generalizing s with
  | nil => simp [writeBits, sameTree, sameCodes, sameReader, samePhase, sameHost]
  | cons x bits ih =>
    have a := writeBit_frame x s
    have b := ih (writeBit x s)
    simp_all [writeBits, sameTree, sameCodes, sameReader, samePhase, sameHost]

/-- Bits written in two parts. -/
theorem writeBits_append (p q : List Bool) (s : State) : writeBits (p ++ q) s = writeBits q (writeBits p s) := by
  induction p generalizing s with
  | nil => rfl
  | cons x p ih => exact ih (writeBit x s)

/-! ## The builder (R99, R101) -/

/-- What the merge steps leave alone. -/
def sameButTree (s t : State) : Prop :=
  sameCodes s t ∧ sameWriter s t ∧ sameReader s t ∧ sameStreams s t ∧ sameHost s t

theorem sameButTree_refl (s : State) : sameButTree s s := by
  simp [sameButTree, sameCodes, sameWriter, sameReader, sameStreams, sameHost]

theorem sameButTree_trans {s t u : State} (h : sameButTree s t) (g : sameButTree t u) : sameButTree s u := by
  simp_all [sameButTree, sameCodes, sameWriter, sameReader, sameStreams, sameHost]

/-- The state after the two extractions of a merge (R99). -/
def afterExtracts (s : State) : State := (extractMin (extractMin s).2).2

/-- The two handles a merge extracts, the left child first (R99). -/
def extractedPair (s : State) : Handle × Handle := ((extractMin s).1, (extractMin (extractMin s).2).1)

/-- R99: a merge whose sum fits links its pair. -/
theorem merge_of_fits {k : Nat} {s : State}
    (h : (s.nfreq (extractedPair s).1).toNat + (s.nfreq (extractedPair s).2).toNat ≤ Config.FREQ_MAX) :
    merge k s = (linkNode k (extractedPair s).1 (extractedPair s).2 (afterExtracts s), false) := by
  have e : ∀ x : Handle, (extractMin (extractMin s).2).2.nfreq x = s.nfreq x := by intro x; simp [State.nfreq]
  simp only [merge, extractedPair, afterExtracts, e] at h ⊢
  rw [if_neg (by omega)]

/-- R99, R163: a merge whose sum does not fit faults and writes no node. -/
theorem merge_of_overflow {k : Nat} {s : State}
    (h : Config.FREQ_MAX < (s.nfreq (extractedPair s).1).toNat + (s.nfreq (extractedPair s).2).toNat) :
    merge k s = (raiseFault (afterExtracts s) .weightOverflow (BitVec.ofNat 16 k), true) := by
  have e : ∀ x : Handle, (extractMin (extractMin s).2).2.nfreq x = s.nfreq x := by intro x; simp [State.nfreq]
  simp only [merge, extractedPair, afterExtracts, e] at h ⊢
  rw [if_pos h]

/-- A merge changes the tree, and the phase and fault registers only when it faults. -/
theorem merge_frame (k : Nat) (s : State) :
    sameButTree s (merge k s).1 ∧ (merge k s).1.ROOT = s.ROOT ∧
      ((merge k s).2 = false → samePhase s (merge k s).1 ∧ (merge k s).1.BUSY = s.BUSY) ∧
      ((merge k s).2 = true →
        (merge k s).1.PHASE = .fault ∧ (merge k s).1.ERR = .weightOverflow ∧ (merge k s).1.BUSY = false) := by
  by_cases h : Config.FREQ_MAX < (s.nfreq (extractedPair s).1).toNat + (s.nfreq (extractedPair s).2).toNat
  · rw [merge_of_overflow h]
    simp [afterExtracts, sameButTree, sameCodes, sameWriter, sameReader, sameStreams, sameHost]
  · rw [merge_of_fits (by omega)]
    simp [linkNode, afterExtracts, sameButTree, sameCodes, sameWriter, sameReader, sameStreams, sameHost, samePhase]

/-- The merges change the tree, and the phase and fault registers only when one faults. -/
theorem mergeFrom_frame (n k : Nat) (s : State) :
    sameButTree s (mergeFrom n k s).1 ∧ (mergeFrom n k s).1.ROOT = s.ROOT ∧
      ((mergeFrom n k s).2 = false → samePhase s (mergeFrom n k s).1 ∧ (mergeFrom n k s).1.BUSY = s.BUSY) ∧
      ((mergeFrom n k s).2 = true →
        (mergeFrom n k s).1.PHASE = .fault ∧ (mergeFrom n k s).1.ERR = .weightOverflow ∧
          (mergeFrom n k s).1.BUSY = false) := by
  induction n generalizing k s with
  | zero => simp [mergeFrom, sameButTree_refl, samePhase_refl]
  | succ n ih =>
    have m := merge_frame k s
    cases hf : (merge k s).2
    · have r := ih (k + 1) (merge k s).1
      have m' := m.2.2.1 hf
      simp only [mergeFrom, hf]
      refine ⟨sameButTree_trans m.1 r.1, r.2.1.trans m.2.1, fun h => ?_, fun h => r.2.2.2 h⟩
      exact ⟨samePhase_trans m'.1 (r.2.2.1 h).1, (r.2.2.1 h).2.trans m'.2⟩
    · simp only [mergeFrom, hf, if_true]
      exact ⟨m.1, m.2.1, by simp, fun _ => m.2.2.2 hf⟩

/-! ## The descent loop (R142) -/

/-- One round of the descent loop. -/
theorem descend_cases {n : Nat} {s t : State} (h : descend (n + 1) s = .next t) :
    (readBit s = none ∧ t = hold s) ∨
    ∃ r u d, readBit s = some (r, u) ∧ u.child? u.DNODE r = some d ∧
      ((isLeaf d = true ∧ t = emitSymbol (d.setWidth 8) { u with DSTATE := .descending, DNODE := d }) ∨
       (isLeaf d = false ∧ descend n { u with DSTATE := .descending, DNODE := d } = .next t)) := by
  simp only [descend] at h
  cases hr : readBit s with
  | none => simp only [hr, Host.Outcome.next.injEq] at h; exact .inl ⟨rfl, h.symm⟩
  | some p =>
    obtain ⟨r, u⟩ := p
    simp only [hr] at h
    cases hc : u.child? u.DNODE r with
    | none => simp [hc] at h
    | some d =>
      simp only [hc] at h
      refine .inr ⟨r, u, d, rfl, hc, ?_⟩
      cases hl : isLeaf d
      · simp only [hl] at h; exact .inr ⟨rfl, by simpa using h⟩
      · simp only [hl, if_true, Host.Outcome.next.injEq] at h; exact .inl ⟨rfl, h.symm⟩

/-- The descent loop leaves the tree, the code table, the writer, the phase and the host's fields alone. -/
theorem descend_frame {n : Nat} {s t : State} (h : descend n s = .next t) :
    sameTree s t ∧ sameCodes s t ∧ sameWriter s t ∧ samePhase s t ∧ sameHost s t ∧ t.RD_OPEN = s.RD_OPEN ∧
      t.END = s.END := by
  induction n generalizing s with
  | zero => simp [descend] at h
  | succ n ih =>
    obtain ⟨_, rfl⟩ | ⟨r, u, d, hb, _, ⟨_, rfl⟩ | ⟨_, hd⟩⟩ := descend_cases h
    · simp [sameTree, sameCodes, sameWriter, samePhase, sameHost]
    · have f := readBit_frame hb
      simp_all [sameTree, sameCodes, sameWriter, samePhase, sameHost]
    · have f := readBit_frame hb
      have g := ih hd
      simp_all [sameTree, sameCodes, sameWriter, samePhase, sameHost]

/-! ## The walk (R110) -/

/-- One node of the walk that is a leaf. -/
theorem walk_leaf {s : State} {n : Nat} {h : Handle} {path : List Bool} {t : CodeTable} (hl : isLeaf h = true) :
    walk s (n + 1) h path t =
      if Config.MAX_CODE_LEN < path.length then .tooLong h t else .done (t.enter h path) := by
  simp [walk, hl]

/-- One node of the walk that is internal: the left subtree, then the right one. -/
theorem walk_internal {s : State} {n : Nat} {h l r : Handle} {path : List Bool} {t : CodeTable}
    (hl : isLeaf h = false) (hL : s.child? h false = some l) (hR : s.child? h true = some r) :
    walk s (n + 1) h path t =
      match walk s n l (path ++ [false]) t with
      | .done t' => walk s n r (path ++ [true]) t'
      | e => e := by
  simp only [walk, hl, hL, hR]
  rfl

/-! ## The port and the step -/

/-- A command word that is executed where phase FAULT does not ignore it. -/
theorem executeWord_of_decode {w : CmdWord} {i : Instr} {s : State} (hd : decode w = some i)
    (h : s.PHASE ≠ .fault ∨ w = CLEAR_WORD) : executeWord w s = exec i s := by
  have : ¬ (s.PHASE = .fault ∧ w ≠ CLEAR_WORD) := by tauto
  simp [executeWord, this, hd]

/-- R165: an illegal word. -/
theorem executeWord_of_illegal {w : CmdWord} {s : State} (hd : decode w = none) (h : s.PHASE ≠ .fault) :
    executeWord w s = .next (raiseFault s .illegalCommand w) := by
  simp [executeWord, h, hd]

/-- R167: a word that phase FAULT ignores. -/
theorem acceptWord_of_fault {w : CmdWord} {s : State} (h : s.PHASE = .fault) (hw : w ≠ CLEAR_WORD) :
    acceptWord w s = .next s := by simp [acceptWord, h, hw]

/-- A word the port takes. -/
theorem acceptWord_of_taken {w : CmdWord} {s : State} (h : s.PHASE ≠ .fault ∨ w = CLEAR_WORD) :
    acceptWord w s = retireOutcome (executeWord w { s with CUR_CMD := w }) := by
  have : ¬ (s.PHASE = .fault ∧ w ≠ CLEAR_WORD) := by tauto
  simp [acceptWord, this]

/-- A step takes the host's next action, or waits. -/
theorem step_cases {s t : State} (h : step s = .next t) :
    (nextAction s = none ∧ t = s) ∨
    ∃ a rest, nextAction s = some (a, rest) ∧ hostAct a { s with HOSTQ := rest } = .next t := by
  simp only [step, hostStep] at h
  cases hn : nextAction s with
  | none => simp only [hn, Host.Outcome.next.injEq] at h; exact .inl ⟨rfl, h.symm⟩
  | some p => simp only [hn] at h; exact .inr ⟨p.1, p.2, rfl, h⟩

/-- While no command holds, the next action is the first one. -/
theorem nextAction_idle {s : State} (h : s.BUSY = false) {a : HostAction} {rest : List HostAction}
    (hq : s.HOSTQ = a :: rest) : nextAction s = some (a, rest) := by simp [nextAction, h, hq]

/-- R12: while a command holds, no command word is taken. -/
theorem takeWhileHolding_not_write {q rest : List HostAction} {w : CmdWord} :
    takeWhileHolding q ≠ some (.write w, rest) := by
  induction q generalizing rest with
  | nil => simp [takeWhileHolding]
  | cons a q ih =>
    cases a with
    | write v =>
      intro h
      simp only [takeWhileHolding, Option.map_eq_some_iff] at h
      obtain ⟨⟨b, r⟩, hp, he⟩ := h
      simp only [Prod.mk.injEq] at he
      obtain ⟨rfl, _⟩ := he
      exact ih hp
    | push _ => simp [takeWhileHolding]
    | drain _ => simp [takeWhileHolding]
    | read _ => simp [takeWhileHolding]
    | reset => simp [takeWhileHolding]

end Sys2Proof.Machine
end

