-- ==== Sys2Proof/Laws/PerInstr.lean ====
section
/-! SUPPORT. For each command, that its word is a legal encoding with the command's own opcode and operand in the
fields R60 gives them. -/

namespace Sys2Proof.Laws.LegalWord

/-- The word of the command is legal (R63) and its fields are the command's opcode, 0 and the operand byte (R60). -/
def Statement (i : Instr) : Prop :=
  CmdWord.legalEncoding (encode i) = true ∧ CmdWord.op (encode i) = i.op ∧ CmdWord.rsv (encode i) = 0#4 ∧
    CmdWord.imm8 (encode i) = i.imm8

/-- The opcode field of a word put together from its fields. -/
theorem op_append (o : BitVec 4) (b : Byte) : CmdWord.op (o ++ 0#4 ++ b) = o := by
  apply BitVec.eq_of_getLsbD_eq
  intro j hj
  simp only [CmdWord.op, BitVec.getLsbD_extractLsb', BitVec.getLsbD_append, hj, decide_true, Bool.true_and]
  have h1 : ¬ 12 + j < 8 := by omega
  have h2 : ¬ 12 + j - 8 < 4 := by omega
  have h3 : 12 + j - 8 - 4 = j := by omega
  simp [h1, h2, h3]

/-- The reserved field of a word put together from its fields. -/
theorem rsv_append (o : BitVec 4) (b : Byte) : CmdWord.rsv (o ++ 0#4 ++ b) = 0#4 := by
  apply BitVec.eq_of_getLsbD_eq
  intro j hj
  simp only [CmdWord.rsv, BitVec.getLsbD_extractLsb', BitVec.getLsbD_append]
  have h1 : ¬ 8 + j < 8 := by omega
  have h2 : 8 + j - 8 < 4 := by omega
  simp only [h1, h2, if_true, if_false, BitVec.getLsbD_zero, Bool.and_false]

/-- The operand field of a word put together from its fields. -/
theorem imm8_append (o : BitVec 4) (b : Byte) : CmdWord.imm8 (o ++ 0#4 ++ b) = b := by
  apply BitVec.eq_of_getLsbD_eq
  intro j hj
  simp only [CmdWord.imm8, BitVec.getLsbD_extractLsb', Nat.zero_add, BitVec.getLsbD_append, hj, decide_true, Bool.true_and,
    if_true]

/-- The fields of the word of a command, and that it is legal where its operand is allowed. -/
theorem statement_of (i : Instr) (ho : i.op.toNat ≤ 8) (hi : i.imm8 = 0#8 ∨ i.op = 0x2#4 ∨ i.op = 0x5#4) :
    Statement i := by
  have e1 : CmdWord.op (encode i) = i.op := op_append i.op i.imm8
  have e2 : CmdWord.rsv (encode i) = 0#4 := rsv_append i.op i.imm8
  have e3 : CmdWord.imm8 (encode i) = i.imm8 := imm8_append i.op i.imm8
  refine ⟨?_, e1, e2, e3⟩
  simp [CmdWord.legalEncoding, CmdWord.opDefined, CmdWord.rsvZero, CmdWord.immAllowed, e1, e2, e3, ho, hi]

theorem nop : Statement .nop := statement_of _ (by decide) (by decide)
theorem clear : Statement .clear := statement_of _ (by decide) (by decide)
theorem train (b : Byte) : Statement (.train b) := statement_of _ (by simp [Instr.op]) (.inr (.inl rfl))
theorem build : Statement .build := statement_of _ (by decide) (by decide)
theorem assign : Statement .assign := statement_of _ (by decide) (by decide)
theorem enc (b : Byte) : Statement (.enc b) := statement_of _ (by simp [Instr.op]) (.inr (.inr rfl))
theorem flush : Statement .flush := statement_of _ (by decide) (by decide)
theorem dopen : Statement .dopen := statement_of _ (by decide) (by decide)
theorem dsym : Statement .dsym := statement_of _ (by decide) (by decide)

end Sys2Proof.Laws.LegalWord
end

