-- ==== Sys2Proof/Tests/Slice0.lean ====
section
/-! SUPPORT. The model's own tests. Expected values come from spec/95_test_vectors.md (the vector is named at each test)
or, where it says so, from a hand calculation by the rule named. -/

set_option Elab.async false

namespace Sys2Proof.Tests
open Sys2Proof.Machine

/-! ## Helpers -/

/-- The next state of an outcome, or `s`. -/
def nextOf (s : State) : Outcome → State
  | .next t => t
  | .fault _ => s
  | .refused _ => s

/-- Whether an outcome is a next state. -/
def isNext : Outcome → Bool
  | .next _ => true
  | .fault _ => false
  | .refused _ => false

/-- The next state that `exec` answers, or the reset state. -/
def execNext (i : Instr) (s : State) : State := nextOf State.reset (exec i s)

/-- The next state that `step` answers, or the reset state. -/
def stepNext (s : State) : State := nextOf State.reset (step s)

/-- A state in phase BUILT whose tree is the complete one: node `256 + k` has the children `2k` and `2k + 1`. -/
def balanced : State :=
  { State.reset with
    PHASE := .built, ROOT := 510#9, MCOUNT := 255#9, HSIZE := 1#9
    NLEFT := tabulate 255 fun k => BitVec.ofNat 9 (2 * k)
    NRIGHT := tabulate 255 fun k => BitVec.ofNat 9 (2 * k + 1) }

/-- A state in phase BUILT whose tree is a chain: the left child of node `256 + k` is leaf `k + 1`, the right child is the node
before it, and leaf 0 ends the chain. -/
def chain : State :=
  { balanced with
    NLEFT := tabulate 255 fun k => BitVec.ofNat 9 (k + 1)
    NRIGHT := tabulate 255 fun k => BitVec.ofNat 9 (if k = 0 then 0 else 255 + k) }

/-- Phase ASSIGNED, with one entry of the code table. -/
def withCode (b : Byte) (code : Word32) (len : BitVec 6) : State :=
  { balanced with PHASE := .assigned, CODE := writeAt State.reset.CODE b.toNat code, LEN := writeAt State.reset.LEN b.toNat len }

/-- The heap of tree E right after heapify (T41-2): every leaf weighs 1 and slot `j` holds leaf `j`. -/
def heapE : State :=
  { State.reset with NFREQ := tabulate 511 fun _ => 1#32, HEAP := seedHeap, HSIZE := 256#9 }

/-- Phase BUILT with an open reader. -/
def reading (buf : Byte) (idx : BitVec 3) (input : List Token) : State :=
  { balanced with RD_OPEN := true, RBUF := buf, RIDX := idx, IN := input }

/-! ## Decoding: words written out from the opcode map of R62 -/

theorem test_decode_plain :
    decode 0b0000000000000000#16 = some .nop ∧ decode 0b0001000000000000#16 = some .clear ∧
    decode 0b0011000000000000#16 = some .build ∧ decode 0b0100000000000000#16 = some .assign ∧
    decode 0b0110000000000000#16 = some .flush ∧ decode 0b0111000000000000#16 = some .dopen ∧
    decode 0b1000000000000000#16 = some .dsym := by decide

theorem test_decode_operand :
    decode 0b0010000001100001#16 = some (.train 0x61#8) ∧ decode 0b0101000001000001#16 = some (.enc 0x41#8) ∧
    decode 0b0010000000000000#16 = some (.train 0x00#8) ∧ decode 0b0101000011111111#16 = some (.enc 0xFF#8) := by decide

theorem test_encode_words :
    encode .nop = 0x0000#16 ∧ encode .clear = 0x1000#16 ∧ encode (.train 0x61#8) = 0x2061#16 ∧
    encode .build = 0x3000#16 ∧ encode .assign = 0x4000#16 ∧ encode (.enc 0x41#8) = 0x5041#16 ∧
    encode .flush = 0x6000#16 ∧ encode .dopen = 0x7000#16 ∧ encode .dsym = 0x8000#16 := by decide

/-! ## Legal encodings: for each check of R63 a word that only this check refuses -/

theorem test_wellformed_reserved_opcode :
    CmdWord.opDefined 0x9000#16 = false ∧ CmdWord.legalEncoding 0x9000#16 = false ∧ decode 0x9000#16 = none ∧
    decode 0xF000#16 = none := by decide

theorem test_wellformed_reserved_bits :
    CmdWord.rsvZero 0x0100#16 = false ∧ CmdWord.legalEncoding 0x0100#16 = false ∧ decode 0x0100#16 = none ∧
    decode 0x2861#16 = none := by decide

theorem test_wellformed_operand_bits :
    CmdWord.immAllowed 0x3001#16 = false ∧ CmdWord.legalEncoding 0x3001#16 = false ∧ decode 0x3001#16 = none ∧
    decode 0x8080#16 = none := by decide

theorem test_wellformed_legal :
    CmdWord.legalEncoding 0x2061#16 = true ∧ CmdWord.legalEncoding 0x50FF#16 = true ∧
    CmdWord.legalEncoding 0x8000#16 = true ∧ Instr.wellFormed (.train 0xFF#8) = true := by decide

/-! ## The assembler (R68) -/

theorem test_assemble_program :
    Asm.assemble ['T', 'R', 'A', 'I', 'N', ' ', '9', '7', ' ', ';', 'a', '\n', '\n', 'F', 'L', 'U', 'S', 'H'] =
      some [0x2061#16, 0x6000#16] := by decide +kernel

theorem test_assemble_rejects :
    Asm.assemble ['T', 'R', 'A', 'I', 'N', ' ', '2', '5', '6'] = none ∧
    Asm.assemble ['D', 'S', 'Y', 'M', ' ', '1'] = none := by decide +kernel

/-! ## Control and training -/

/-- T40-1. -/
theorem test_nop_status : readReg (execNext .nop State.reset) 0x000#12 = 0x00#32 := by decide +kernel

/-- T40-7: a command in phase FAULT is ignored. -/
theorem test_nop_in_fault :
    (execNext .nop { State.reset with PHASE := .fault, ERR := .sequence, ERRINFO := 0x0102#16 }).ERRINFO = 0x0102#16 := by
  decide +kernel

/-- T40-8: CLEAR loses the bits the writer holds. -/
theorem test_clear_writer :
    (execNext .clear { balanced with PHASE := .assigned, WBUF := 0x7F#8, WIDX := 7#3 }).WIDX = 0#3 ∧
    (execNext .clear { balanced with PHASE := .assigned, WBUF := 0x7F#8, WIDX := 7#3 }).PHASE = .train := by decide +kernel

/-- T40-6: CLEAR leaves phase FAULT. -/
theorem test_clear_fault :
    readReg (execNext .clear { State.reset with PHASE := .fault, ERR := .sequence, ERRINFO := 0x0102#16 }) 0x002#12 =
      0#32 := by decide +kernel

/-- T40-2, the third `TRAIN 'a'`. -/
theorem test_train_count :
    readAt (execNext (.train 0x61#8) { State.reset with NFREQ := tabulate 511 fun _ => 2#32 }).NFREQ 0x61 = 3#32 := by
  decide +kernel

/-- T40-4: the count stays, and the fault is recorded. -/
theorem test_train_overflow :
    let t := execNext (.train 0x00#8) { State.reset with NFREQ := tabulate 511 fun _ => 0xFFFFFFFF#32 }
    t.ERR = .countOverflow ∧ t.ERRINFO = 0x0000#16 ∧ readReg t 0x000#12 = 0x03#32 ∧
      readReg t 0x200#12 = 0xFFFFFFFF#32 := by decide +kernel

/-! ## BUILD -/

/-- T41-2, extract_min #1. -/
theorem test_extract_min_first :
    (extractMin heapE).1 = 0#9 ∧ (extractMin heapE).2.HSIZE = 255#9 ∧ readAt (extractMin heapE).2.HEAP 0 = 255#9 ∧
    readAt (extractMin heapE).2.HEAP 255 = 255#9 := by decide +kernel

/-- T41-2, extract_min #3: node 256 of weight 2 moves to the root and sifts down the left-preferring path. -/
theorem test_extract_min_third :
    let s := { heapE with
      NFREQ := writeAt heapE.NFREQ 256 2#32, HSIZE := 255#9, HEAP := writeAt (writeAt seedHeap 0 254#9) 254 256#9 }
    (extractMin s).1 = 254#9 ∧ ((List.range 8).map fun j => (readAt (extractMin s).2.HEAP j).toNat) = [1, 3, 2, 7, 4, 5, 6, 15] ∧
      readAt (extractMin s).2.HEAP 63 = 127#9 ∧ readAt (extractMin s).2.HEAP 127 = 256#9 := by decide +kernel

/-- T41-1: the first merge is 256 = (0, 255), of weight 2. -/
theorem test_merge_first :
    let t := (merge 0 heapE).1
    readAt t.NLEFT 0 = 0#9 ∧ readAt t.NRIGHT 0 = 255#9 ∧ readAt t.NFREQ 256 = 2#32 ∧ t.MCOUNT = 1#9 ∧
      readAt t.HEAP 254 = 256#9 ∧ t.HSIZE = 255#9 := by decide +kernel

/-- T41-4: the last merge, of weights `2^32 - 1` and 255. -/
theorem test_merge_overflow :
    let s := { heapE with
      NFREQ := writeAt (tabulate 511 fun _ => 255#32) 0 0xFFFFFFFF#32, HSIZE := 2#9, MCOUNT := 254#9,
      HEAP := writeAt (writeAt seedHeap 0 509#9) 1 0#9 }
    let t := (merge 254 s).1
    t.ERR = .weightOverflow ∧ t.ERRINFO = 0x00FE#16 ∧ t.MCOUNT = 254#9 ∧ t.HSIZE = 0#9 ∧ t.PHASE = .fault := by
  decide +kernel

/-- T41-3: leaf 97 of weight 3 swaps with leaf 195. -/
theorem test_sift_down_tree_q :
    let h := siftDown (writeAt (tabulate 511 fun _ => 1#32) 97 3#32) 256 97 seedHeap
    readAt h 97 = 195#9 ∧ readAt h 195 = 97#9 ∧ readAt h 196 = 196#9 := by decide +kernel

/-- T41-7. -/
theorem test_build_twice : (execNext .build balanced).ERRINFO = 0x0103#16 := by decide +kernel

/-- T41-2, R92: BUILD's floor step and the seeded heap. -/
theorem test_floor_step :
    readAt (floorStep State.reset.NFREQ) 0 = 1#32 ∧ readAt (floorStep State.reset.NFREQ) 255 = 1#32 ∧
    readAt (floorStep (tabulate 511 fun _ => 3#32)) 97 = 3#32 := by decide +kernel

/-! ## ASSIGN -/

/-- By R110 and R111: in the complete tree the path of a byte is its bits, bit 7 first. -/
theorem test_assign_balanced :
    let t := execNext .assign balanced
    t.PHASE = .assigned ∧ t.len 0x41#8 = 8#6 ∧ t.code 0x41#8 = 0x82#32 := by decide +kernel

/-- By R110 and R112: the leaf of the chain at depth 33 is 223; the leaf at depth 32 is 224, with 31 right edges before its left one. -/
theorem test_assign_too_long :
    let t := execNext .assign chain
    t.ERR = .codeTooLong ∧ t.ERRINFO = 0x00DF#16 ∧ t.len 255#8 = 1#6 ∧ t.len 224#8 = 32#6 ∧
      t.code 224#8 = 0x7FFFFFFF#32 := by decide +kernel

/-! ## ENC and FLUSH -/

/-- T43-1. -/
theorem test_enc_whole_byte :
    let t := execNext (.enc 0x41#8) (withCode 0x41#8 0xD8#32 8#6)
    t.OUT = [0xD8#8] ∧ t.WIDX = 0#3 ∧ t.WBUF = 0x00#8 := by decide +kernel

/-- T43-6: a 9-bit code after 7 bits spans two bytes. -/
theorem test_enc_two_bytes :
    let t := execNext (.enc 0x3E#8) { withCode 0x3E#8 0xBF#32 9#6 with WBUF := 0x7F#8, WIDX := 7#3 }
    t.OUT = [0xFF#8, 0x5F#8] ∧ t.WIDX = 0#3 ∧ t.WBUF = 0x00#8 := by decide +kernel

/-- T43-5. -/
theorem test_flush_partial :
    (execNext .flush { balanced with PHASE := .assigned, WBUF := 0x7F#8, WIDX := 7#3 }).OUT = [0x7F#8] := by decide +kernel

/-- T43-16. -/
theorem test_flush_out_of_phase : (execNext .flush balanced).ERRINFO = 0x0106#16 := by decide +kernel

/-- T43-0: the eight bits 1, 0, 1, 1, 1, 1, 1, 1. -/
theorem test_write_bits :
    (writeBits [true, false, true, true] State.reset).WBUF = 0x0D#8 ∧
    (writeBits [true, false, true, true, true, true, true, true] State.reset).OUT = [0xFD#8] := by decide +kernel

/-! ## DOPEN and DSYM -/

/-- T44-1. -/
theorem test_dopen_first_byte :
    let t := execNext .dopen { balanced with IN := [.byte 0xD8#8, .byte 0x00#8, .endMark] }
    t.RBUF = 0xD8#8 ∧ t.IN = [.byte 0x00#8, .endMark] ∧ readReg t 0x000#12 = 0x05#32 := by decide +kernel

/-- P4: an empty input holds. -/
theorem test_dopen_holds : readReg (execNext .dopen balanced) 0x000#12 = 0x21#32 := by decide +kernel

/-- T44-7 on the root of tree S, whose left child is leaf 0x41: one 0 bit gives 0x41. -/
theorem test_dsym_one_bit :
    let t := execNext .dsym { reading 0x00#8 0#3 [.endMark] with NLEFT := writeAt balanced.NLEFT 254 65#9 }
    t.OUT = [0x41#8] ∧ t.RIDX = 1#3 ∧ t.DSYM_VALID = true := by decide +kernel

/-- T44-5: the end at the start of a symbol. -/
theorem test_dsym_end :
    let t := execNext .dsym { reading 0x00#8 0#3 [] with EOF := true }
    t.OUT = [] ∧ readReg t 0x000#12 = 0x1D#32 := by decide +kernel

/-- T44-0: the eighth read takes `End` and sets `EOF`. -/
theorem test_read_bit_end :
    ((readBit (reading 0x0D#8 7#3 [.endMark])).map fun p => (p.1, p.2.EOF, p.2.RBUF, p.2.IN)) =
      some (false, true, 0x00#8, []) := by decide +kernel

/-! ## The port and the step -/

/-- R14, R32: the numbers of the fault codes at word 0x001. -/
theorem test_err_numbers :
    [ErrCode.none, .codeTooLong, .countOverflow, .weightOverflow, .sequence, .illegalCommand].map
      (fun e => readReg { State.reset with ERR := e } 0x001#12) = [0#32, 1#32, 2#32, 3#32, 4#32, 5#32] := by decide +kernel

/-- T40-9. -/
theorem test_step_illegal :
    let t := stepNext (State.reset.withFetchWord 16 0x0100)
    t.ERR = .illegalCommand ∧ t.ERRINFO = 0x0100#16 := by decide +kernel

/-- P4: a push resumes the held DOPEN. -/
theorem test_step_push_resumes :
    let s := { balanced with BUSY := true, CUR_CMD := 0x7000#16, HOSTQ := [.write 0x8000#16, .push (.byte 0xD8#8)] }
    let t := stepNext s
    t.RBUF = 0xD8#8 ∧ readReg t 0x000#12 = 0x05#32 ∧ t.HOSTQ = [.write 0x8000#16] := by decide +kernel

/-- T44-2: the symbol is decoded before `End` is pushed. -/
theorem test_dsym_before_end :
    let t := execNext .dsym (reading 0x82#8 0#3 [.byte 0x00#8])
    t.OUT = [0x41#8] ∧ t.RIDX = 0#3 ∧ t.EOF = false ∧ t.IN = [] := by decide +kernel

/-- R47, U9: with nothing pushed, the held command makes no progress. -/
theorem test_step_hold_waits :
    let s := { balanced with BUSY := true, CUR_CMD := 0x7000#16, HOSTQ := [.write 0x1000#16] }
    (stepNext s).HOSTQ = [.write 0x1000#16] ∧ (stepNext s).BUSY = true := by decide +kernel

end Sys2Proof.Tests
end

