-- ==== Sys2Proof/Tests/Witnesses.lean ====
section
/-! SUPPORT. For every obligation with hypotheses, a theorem that shows a concrete state and operands meeting all of them
together, for each clause. A witness is named after its obligation. -/

set_option Elab.async false

namespace Sys2Proof.Tests
open Sys2Proof.Machine

/-! ## Concrete states -/

/-- An outcome that is a next state is that next state. -/
theorem eq_next_of_isNext {o : Outcome} (s : State) (h : isNext o = true) : o = .next (nextOf s o) := by
  cases o with
  | next t => rfl
  | fault _ => simp [isNext] at h
  | refused _ => simp [isNext] at h

/-- The path of byte `b` in the complete tree: its bits, bit 7 first. -/
def bytePath (b : Nat) : List Bool := (List.range 8).map fun j => b.testBit (7 - j)

/-- The height of a node of the complete tree, or 0. -/
def height (n : Nat) : Nat :=
  if n < 256 then 0 else if n < 384 then 1 else if n < 448 then 2 else if n < 480 then 3 else if n < 496 then 4
  else if n < 504 then 5 else if n < 508 then 6 else if n < 510 then 7 else 8

/-- The complete tree in phase ASSIGNED, with its code table and the frequency sums of leaves of weight 1. -/
def assigned : State :=
  { balanced with
    PHASE := .assigned
    NFREQ := tabulate 511 fun i => BitVec.ofNat 32 (2 ^ height i)
    CODE := tabulate 256 fun b => codeWord (bytePath b)
    LEN := tabulate 256 fun _ => 8#6 }

/-- The node a path leads to in the complete tree, as a number. -/
def endOf : Nat → List Bool → Nat
  | n, [] => n
  | n, b :: p => endOf (2 * (n - 256) + b.toNat) p

/-- Whether a path only leaves internal nodes. -/
def staysInside : Nat → List Bool → Bool
  | _, [] => true
  | n, b :: p => decide (256 ≤ n ∧ n ≤ 510) && staysInside (2 * (n - 256) + b.toNat) p

/-- A child in the complete tree. -/
theorem child?_balanced {n : Nat} (h : 256 ≤ n) (h' : n ≤ 510) (b : Bool) :
    balanced.child? (BitVec.ofNat 9 n) b = some (BitVec.ofNat 9 (2 * (n - 256) + b.toNat)) := by
  have e : (BitVec.ofNat 9 n).toNat = n := by simp; omega
  have hk : n - 256 < 255 := by omega
  rw [child?_internal _ (by omega) (by omega)]
  cases b <;> simp [State.nleft, State.nright, balanced, e, Config.ALPHABET, hk]

/-- A path in the complete tree. -/
theorem follow_balanced (p : List Bool) : ∀ n, staysInside n p = true →
    follow balanced (BitVec.ofNat 9 n) p = some (BitVec.ofNat 9 (endOf n p)) := by
  induction p with
  | nil => intro n _; rfl
  | cons b p ih =>
    intro n h
    simp only [staysInside, Bool.and_eq_true, decide_eq_true_eq] at h
    simp only [follow, child?_balanced h.1.1 h.1.2, ih _ h.2, endOf]

/-- Every byte's path leads to it. -/
theorem bytePath_leads : ∀ b, b < 256 → staysInside 510 (bytePath b) = true ∧ endOf 510 (bytePath b) = b := by
  decide +kernel

/-- Every byte's path is a leaf path of the complete tree. -/
theorem leafPath_balanced (b : Byte) : leafPath balanced (bytePath b.toNat) b := by
  have h := bytePath_leads b.toNat b.isLt
  have f := follow_balanced (bytePath b.toNat) 510 h.1
  have r : balanced.ROOT = BitVec.ofNat 9 510 := rfl
  have e : BitVec.ofNat 9 b.toNat = leafOf b := by
    apply BitVec.eq_of_toNat_eq
    have := b.isLt
    simp
    omega
  unfold leafPath
  rw [r, f, h.2, e]

theorem height_children : ∀ n, n < 511 → 256 ≤ n →
    height (2 * (n - 256)) + 1 ≤ height n ∧ height (2 * (n - 256) + 1) + 1 ≤ height n := by decide +kernel

theorem height_child {n : Nat} (h : 256 ≤ n) (h' : n ≤ 510) (b : Bool) :
    height (2 * (n - 256) + b.toNat) + 1 ≤ height n := by
  have := height_children n (by omega) h
  cases b
  · simpa using this.1
  · simpa using this.2

/-- No path of the complete tree is longer than the height of its start. -/
theorem path_le_height (p : List Bool) : ∀ n m, n ≤ 510 → follow balanced (BitVec.ofNat 9 n) p = some m →
    p.length ≤ height n := by
  induction p with
  | nil => intro n m _ _; simp
  | cons b p ih =>
    intro n m hn h
    have e : (BitVec.ofNat 9 n).toNat = n := by simp; omega
    by_cases hi : 256 ≤ n
    · simp only [follow, child?_balanced hi hn] at h
      have hb : b.toNat ≤ 1 := by cases b <;> decide
      have := ih _ m (by omega) h
      have := height_child hi hn b
      simp only [List.length_cons]
      omega
    · rw [follow_leaf _ (by omega)] at h
      simp at h

/-- The complete tree is a built tree. -/
theorem builtTree_balanced : builtTree balanced := by
  have hl : ∀ k, k < 255 → (readAt balanced.NLEFT k).toNat = 2 * k := by
    intro k hk; simp [balanced, hk]; omega
  have hr : ∀ k, k < 255 → (readAt balanced.NRIGHT k).toNat = 2 * k + 1 := by
    intro k hk; simp [balanced, hk]; omega
  have hc : ∀ k bit h, k < 255 → (isChildOf balanced h k bit ↔ h = 2 * k + bit.toNat) := by
    intro k bit h hk
    cases bit <;> simp [isChildOf, hl k hk, hr k hk, eq_comm]
  refine ⟨rfl, fun k hk => by rw [hl k hk, hr k hk]; omega, fun h hh => ⟨h / 2, decide (h % 2 = 1), by omega, ?_, ?_⟩⟩
  · rw [hc _ _ _ (by omega)]
    by_cases e : h % 2 = 1 <;> simp [e] <;> omega
  · intro k' bit' hk' hch
    rw [hc _ _ _ hk'] at hch
    cases bit' <;> simp at hch ⊢ <;> omega

/-- No leaf of the complete tree is deeper than 32. -/
theorem shallow_balanced (p : List Bool) (b : Byte) (h : leafPath balanced p b) : p.length ≤ 32 := by
  have r : balanced.ROOT = BitVec.ofNat 9 510 := rfl
  rw [leafPath, r] at h
  have := path_le_height p 510 _ (by omega) h
  have e : height 510 = 8 := by decide
  omega

/-- The links of the assigned state are those of the complete tree. -/
theorem leafPath_assigned (b : Byte) : leafPath assigned (bytePath b.toNat) b := by
  have h := leafPath_balanced b
  unfold leafPath at h ⊢
  rw [show assigned.ROOT = balanced.ROOT from rfl, ← h]
  have e : ∀ p n, follow assigned n p = follow balanced n p := by
    intro p
    induction p with
    | nil => intro n; rfl
    | cons b p ih =>
      intro n
      have : assigned.child? n b = balanced.child? n b := rfl
      simp only [follow, this, ih]
  exact e _ _

theorem codeWord_bytePath : ∀ b, b < 256 → ∀ j, j < 32 →
    (codeWord (bytePath b)).getLsbD j = (bytePath b)[j]?.getD false := by decide +kernel

/-- The code table of the assigned state holds the paths. -/
theorem codesArePaths_assigned : codesArePaths assigned := by
  intro b
  have hb : b.toNat < 256 := b.isLt
  have hlen : (bytePath b.toNat).length = 8 := by simp [bytePath]
  refine ⟨bytePath b.toNat, leafPath_assigned b, by omega, by omega, ?_, ?_⟩
  · simp [State.len, assigned, hb, hlen]
  · intro j hj
    simp only [State.code, assigned, readAt_tabulate _ hb]
    exact codeWord_bytePath b.toNat hb j hj

/-- ASSIGN on the complete tree answers a next state, since its phase is not the one before. -/
theorem assign_balanced :
    isNext (exec .assign balanced) = true ∧ (execNext .assign balanced).PHASE = .assigned := by
  have h := test_assign_balanced.1
  refine ⟨?_, h⟩
  simp only [execNext] at h
  cases e : exec .assign balanced with
  | next t => rfl
  | fault f => rw [e] at h; exact absurd (show State.reset.PHASE = .assigned from h) (by decide)
  | refused r => rw [e] at h; exact absurd (show State.reset.PHASE = .assigned from h) (by decide)

/-- The state after a FLUSH of the empty payload, which appends one byte 0. -/
theorem flush_assigned : runCommands (Pseudo.encode []) assigned =
    .next { assigned with OUT := [0#8], WBUF := 0#8, WIDX := 0#3 } := rfl

/-- A reader of the same tree with the bytes of the session of one byte `0x41`: its code byte, and the byte of the flush. -/
def reader41 : State := { balanced with IN := [Token.byte 0x82#8, Token.byte 0x00#8, Token.endMark] }

theorem encode41 :
    isNext (runCommands (Pseudo.encode [0x41#8]) assigned) = true ∧
    (nextOf State.reset (runCommands (Pseudo.encode [0x41#8]) assigned)).OUT = assigned.OUT ++ [0x82#8, 0x00#8] := by
  decide +kernel

/-- In phase TRAIN, BUILD runs. -/
theorem exec_build_of_train {s : State} (h : s.PHASE = .train) : exec .build s = .next (buildTree s) := by
  have a : s.PHASE ≠ .fault := by simp [h]
  have b : phaseOk .build s.PHASE s.RD_OPEN = true := by rw [h]; rfl
  simp only [exec, execBuild, guarded_of_ok a b]

/-- In phase ASSIGNED, ENC runs. -/
theorem exec_enc_of_assigned {s : State} (b : Byte) (h : s.PHASE = .assigned) :
    exec (.enc b) s = .next (writeBits (codeBits s b) s) := by
  have a : s.PHASE ≠ .fault := by simp [h]
  have c : phaseOk (.enc b) s.PHASE s.RD_OPEN = true := by rw [h]; rfl
  simp only [exec, execEnc, guarded_of_ok a c]

/-- In phase TRAIN, TRAIN counts its byte unless the count is at its greatest. -/
theorem exec_train_of_train {s : State} (b : Byte) (h : s.PHASE = .train)
    (hc : (s.nfreq (leafOf b)).toNat ≠ Config.FREQ_MAX) : exec (.train b) s = .next (countByte b s) := by
  have a : s.PHASE ≠ .fault := by simp [h]
  have c : phaseOk (.train b) s.PHASE s.RD_OPEN = true := by rw [h]; rfl
  simp only [exec, execTrain, guarded_of_ok a c, hc, if_false]

/-! ## Witnesses -/

/-- A legal and an illegal word, for the two directions. -/
theorem witness_DecodesExactlyLegalWords :
    decode 0x50FF#16 = some (.enc 0xFF#8) ∧ CmdWord.legalEncoding 0x8FFF#16 = false := by decide

theorem witness_StepExecutesWrittenWord :
    (∃ (s : State) (w : CmdWord) (q : List HostAction) (i : Instr), s.BUSY = false ∧ s.HOSTQ = .write w :: q ∧
      decode w = some i ∧ (s.PHASE ≠ .fault ∨ i = .clear)) ∧
    ∃ (s : State) (w : CmdWord) (q : List HostAction) (i : Instr), s.BUSY = false ∧ s.HOSTQ = .write w :: q ∧
      decode w = some i ∧ s.PHASE = .fault ∧ i = .clear :=
  ⟨⟨{ State.reset with HOSTQ := [.write 0x20FF#16] }, 0x20FF#16, [], .train 0xFF#8, rfl, rfl, by decide,
      .inl (by decide)⟩,
    ⟨{ State.reset with PHASE := .fault, HOSTQ := [.write 0x1000#16] }, 0x1000#16, [], .clear, rfl, rfl, by decide, rfl, rfl⟩⟩

theorem witness_PushResumesHeldCommand :
    (∃ (s : State) (tok : Token) (q : List HostAction), s.HOSTQ = .push tok :: q ∧ s.BUSY = false) ∧
    ∃ (s : State) (ws : List CmdWord) (tok : Token) (q : List HostAction) (i : Instr), ws ≠ [] ∧
      s.HOSTQ = ws.map .write ++ .push tok :: q ∧ s.BUSY = true ∧ s.PHASE ≠ .fault ∧ decode s.CUR_CMD = some i :=
  ⟨⟨{ State.reset with HOSTQ := [.push .endMark] }, .endMark, [], rfl, rfl⟩,
    ⟨{ balanced with HOSTQ := [.write 0x8000#16, .push .endMark], BUSY := true, CUR_CMD := 0x7000#16 }, [0x8000#16],
      .endMark, [], .dopen, by simp, rfl, rfl, by decide, by decide⟩⟩

theorem witness_HeldPortTakesNoWord :
    ∃ s t : State, s.BUSY = true ∧ step s = .next t ∧ s.HOSTQ.length = (wordsOf s.HOSTQ).length ∧ s.HOSTQ ≠ [] :=
  ⟨{ balanced with HOSTQ := [.write 0x8000#16], BUSY := true, CUR_CMD := 0x7000#16 },
    { balanced with HOSTQ := [.write 0x8000#16], BUSY := true, CUR_CMD := 0x7000#16 }, rfl, rfl, rfl, by simp⟩

theorem witness_HostReadHasNoSideEffect :
    (∃ (s : State) (a : RegAddr) (q : List HostAction), s.HOSTQ = .read a :: q ∧ s.BUSY = false) ∧
    ∃ (s : State) (ws : List CmdWord) (a : RegAddr) (q : List HostAction), ws ≠ [] ∧ s.BUSY = true ∧
      s.HOSTQ = ws.map .write ++ .read a :: q :=
  ⟨⟨{ balanced with HOSTQ := [.read 0x000#12] }, 0x000#12, [], rfl, rfl⟩,
    ⟨{ balanced with HOSTQ := [.write 0x8000#16, .read 0x3FE#12], BUSY := true, CUR_CMD := 0x7000#16 }, [0x8000#16],
      0x3FE#12, [], by simp, rfl, rfl⟩⟩

theorem witness_ResetEndsAnyCommand :
    (∃ (s : State) (q : List HostAction), s.HOSTQ = .reset :: q ∧ s.BUSY = false) ∧
    ∃ (s : State) (ws : List CmdWord) (q : List HostAction), ws ≠ [] ∧ s.BUSY = true ∧
      s.HOSTQ = ws.map .write ++ .reset :: q :=
  ⟨⟨{ balanced with HOSTQ := [.reset] }, [], rfl, rfl⟩,
    ⟨{ balanced with HOSTQ := [.write 0x8000#16, .reset], BUSY := true, CUR_CMD := 0x7000#16 }, [0x8000#16], [],
      by simp, rfl, rfl⟩⟩

/-- Each phase, for the numbers of R11. -/
theorem witness_StatusFields : ∃ s t u v : State,
    s.PHASE = .train ∧ t.PHASE = .built ∧ u.PHASE = .assigned ∧ v.PHASE = .fault :=
  ⟨State.reset, balanced, assigned, { State.reset with PHASE := .fault, ERR := .sequence }, rfl, rfl, rfl, rfl⟩

/-- Each fault code, for the numbers of R14. -/
theorem witness_RegisterMapWords_codes : ∀ e : ErrCode, ∃ s : State, s.ERR = e :=
  fun e => ⟨{ State.reset with ERR := e }, rfl⟩

/-- The last listed address of each range, and the first and last of each gap. -/
theorem witness_RegisterMapWords :
    (∃ a : RegAddr, 0x009 < a.toNat ∧ a.toNat < 0x200) ∧ (∃ a : RegAddr, a.toNat = 0x3FF) ∧
    (∃ a : RegAddr, a.toNat = 0x4FF) ∧ (∃ a : RegAddr, 0x7FF < a.toNat) ∧
    (BitVec.ofNat 12 (0x200 + 510)).toNat = 0x3FE ∧ (BitVec.ofNat 12 (0x400 + 254)).toNat = 0x4FE ∧
    (BitVec.ofNat 12 (0x700 + 255)).toNat = 0x7FF :=
  ⟨⟨0x1FF#12, by decide⟩, ⟨0x3FF#12, by decide⟩, ⟨0x4FF#12, by decide⟩, ⟨0x800#12, by decide⟩, by decide, by decide, by decide⟩

theorem witness_ClearGivesResetValues :
    ∃ (s t : State) (w : CmdWord), s.PHASE = .fault ∧ executeWord w s = .next t ∧ t.PHASE ≠ .fault :=
  ⟨{ State.reset with PHASE := .fault }, toReset { State.reset with PHASE := .fault }, 0x1000#16, rfl, rfl, by simp⟩

theorem witness_TrainCountsOneByte :
    (∃ (s : State) (b : Byte), s.PHASE = .train ∧ (s.nfreq (leafOf b)).toNat < 2 ^ 32 - 1) ∧
    (∃ (s : State) (b : Byte), s.PHASE = .train ∧ (s.nfreq (leafOf b)).toNat = 2 ^ 32 - 2) ∧
    (∃ (s : State) (b : Byte), s.PHASE = .train ∧ (s.nfreq (leafOf b)).toNat = 2 ^ 32 - 1) ∧
    (∃ s : State, s.PHASE = .built) ∧ ∃ s : State, s.PHASE = .assigned :=
  ⟨⟨State.reset, 0xFF#8, rfl, by decide +kernel⟩,
    ⟨{ State.reset with NFREQ := tabulate 511 fun _ => 0xFFFFFFFE#32 }, 0xFF#8, rfl, by decide +kernel⟩,
    ⟨{ State.reset with NFREQ := tabulate 511 fun _ => 0xFFFFFFFF#32 }, 0xFF#8, rfl, by decide +kernel⟩,
    ⟨balanced, rfl⟩, ⟨assigned, rfl⟩⟩

/-- The count of every leaf after reset. -/
theorem reset_counts (b : Byte) : (State.reset.nfreq (leafOf b)).toNat = 0 := by
  have h : b.toNat < 511 := by omega
  have h' : b.toNat < 256 := b.isLt
  simp [State.nfreq, State.reset, resetNfreq, h, Config.ALPHABET, h']

theorem witness_TrainingSessionCounts :
    ∃ (s : State) (l l' : List Byte), s.PHASE = .train ∧ (∀ b : Byte, (s.nfreq (leafOf b)).toNat + l.count b ≤ 2 ^ 32 - 1) ∧
      l.Perm l' ∧ l ≠ l' := by
  refine ⟨State.reset, [0x61#8, 0x62#8], [0x62#8, 0x61#8], rfl, fun b => ?_, List.Perm.swap _ _ _, by decide⟩
  rw [reset_counts b]
  have : List.count b [0x61#8, 0x62#8] ≤ 2 := List.count_le_length
  omega

/-- Every command that some phase does not admit, in such a phase. -/
theorem witness_OutOfPhaseRaisesSequence :
    inadmissible balanced (.train 0xFF#8) ∧ inadmissible assigned .build ∧ inadmissible State.reset .assign ∧
    inadmissible balanced (.enc 0x00#8) ∧ inadmissible State.reset .flush ∧ inadmissible State.reset .dopen ∧
    inadmissible balanced .dsym ∧ balanced.PHASE ≠ .fault ∧ assigned.PHASE ≠ .fault ∧ State.reset.PHASE ≠ .fault :=
  ⟨by simp [inadmissible, balanced], by simp [inadmissible, assigned], by simp [inadmissible, State.reset],
    by simp [inadmissible, balanced], by simp [inadmissible, State.reset], rfl, .inr rfl, by decide, by decide, by decide⟩

theorem witness_IllegalWordFaults :
    ∃ (s : State) (w : CmdWord) (q : List HostAction), s.BUSY = false ∧ s.PHASE ≠ .fault ∧ s.HOSTQ = .write w :: q ∧
      CmdWord.legalEncoding w = false :=
  ⟨{ State.reset with HOSTQ := [.write 0x8001#16] }, 0x8001#16, [], rfl, by decide, rfl, by decide⟩

theorem witness_FaultPhaseIgnoresWords :
    (∃ (s : State) (w : CmdWord) (q : List HostAction), s.PHASE = .fault ∧ s.BUSY = false ∧ s.HOSTQ = .write w :: q ∧
      w ≠ 0x1000#16) ∧
    (∃ (s t : State) (q : List HostAction), s.PHASE = .fault ∧ s.BUSY = false ∧ s.HOSTQ = .write 0x1000#16 :: q ∧
      step s = .next t ∧ t.PHASE ≠ .fault) ∧
    ∃ (s : State) (q : List HostAction), s.PHASE = .fault ∧ s.BUSY = false ∧ s.HOSTQ = .reset :: q :=
  ⟨⟨{ State.reset with PHASE := .fault, HOSTQ := [.write 0x1001#16] }, 0x1001#16, [], rfl, rfl, rfl, by decide⟩,
    ⟨{ State.reset with PHASE := .fault, HOSTQ := [.write 0x1000#16] },
      retire (toReset { State.reset with PHASE := .fault, CUR_CMD := 0x1000#16 }), [], rfl, rfl, rfl, rfl, by decide⟩,
    ⟨{ State.reset with PHASE := .fault, HOSTQ := [.reset] }, [], rfl, rfl, rfl⟩⟩

theorem witness_PhaseAndErrWriters : ∃ (s t : State) (i : Instr), exec i s = .next t ∧ t.PHASE ≠ s.PHASE :=
  ⟨{ State.reset with PHASE := .fault }, toReset { State.reset with PHASE := .fault }, .clear, rfl, by simp⟩

/-- A heap of 256 slots and an inner slot, and one of one slot. -/
theorem witness_SiftDownIsTheLoop : ∃ hsize i : Nat, hsize ≤ 256 ∧ 2 * i + 2 < hsize := ⟨256, 126, by decide, by decide⟩

theorem witness_SiftUpIsTheLoop : ∃ i : Nat, i < 256 ∧ i ≠ 0 := ⟨255, by decide, by decide⟩

/-- With equal frequencies every heap is in heap order. -/
theorem heapOrdered_heapE (n : Nat) : heapOrdered heapE.NFREQ n heapE.HEAP := by
  have e : ∀ h : Handle, h.toNat < 256 → (readAt heapE.NFREQ h.toNat).toNat = 1 := by
    intro h hh
    have : h.toNat < 511 := by omega
    simp [heapE, this]
  have d : (default : Handle).toNat < 256 := by decide
  have f : ∀ j, slotFreq heapE.NFREQ heapE.HEAP j = 1 := by
    intro j
    unfold slotFreq
    apply e
    by_cases hj : j < 256
    · simp [heapE, readAt_seedHeap hj]; omega
    · have : readAt heapE.HEAP j = default := by
        have : ¬ j < 256 := hj
        simp [readAt, this]
      rw [this]; exact d
  intro i _ _
  rw [f, f]

theorem witness_HeapOrderIsKept :
    (∃ s : State, 1 ≤ s.HSIZE.toNat ∧ s.HSIZE.toNat ≤ 256 ∧ heapOrdered s.NFREQ s.HSIZE.toNat s.HEAP) ∧
    ∃ s : State, s.HSIZE.toNat ≤ 255 ∧ heapOrdered s.NFREQ s.HSIZE.toNat s.HEAP :=
  ⟨⟨heapE, by decide, by decide, heapOrdered_heapE _⟩, ⟨{ heapE with HSIZE := 255#9 }, by decide, heapOrdered_heapE _⟩⟩

/-- The full heap, and a heap of one slot. -/
theorem witness_ExtractMinTakesMinimum :
    (∃ s : State, s.HSIZE.toNat = 256 ∧ heapOrdered s.NFREQ s.HSIZE.toNat s.HEAP) ∧
    ∃ s : State, s.HSIZE.toNat = 1 ∧ heapOrdered s.NFREQ s.HSIZE.toNat s.HEAP :=
  ⟨⟨heapE, rfl, heapOrdered_heapE _⟩, ⟨{ heapE with HSIZE := 1#9 }, rfl, heapOrdered_heapE _⟩⟩

theorem witness_InsertAddsHandle : (∃ s : State, s.HSIZE.toNat = 255) ∧ ∃ s : State, s.HSIZE.toNat = 0 :=
  ⟨⟨{ heapE with HSIZE := 255#9 }, rfl⟩, ⟨State.reset, rfl⟩⟩

/-- A merge of frequencies that are all 1 or 0 does not overflow. -/
theorem merge_first_fits : (merge 0 (startBuild heapE)).2 = false := by
  have h : ∀ x : Handle, ((startBuild heapE).nfreq x).toNat ≤ 1 := by
    intro x
    have e : (startBuild heapE).NFREQ = floorStep heapE.NFREQ := rfl
    by_cases hx : x.toNat < 511
    · have r : readAt heapE.NFREQ x.toNat = 1#32 := by simp [heapE, hx]
      unfold State.nfreq
      rw [e]
      by_cases hl : x.toNat < 256
      · rw [readAt_floorStep_leaf _ hl, r]; decide
      · rw [readAt_floorStep_internal _ (by omega) hx, r]; decide
    · simp [State.nfreq, readAt, hx]
      decide
  have a := h (extractedPair (startBuild heapE)).1
  have b := h (extractedPair (startBuild heapE)).2
  rw [merge_of_fits (by simp only [Config.FREQ_MAX]; omega)]

theorem witness_LiveNodesStandInHeapOnce :
    (∃ (s u : State), mergeFrom 0 0 (startBuild s) = (u, false)) ∧
    ∃ (s u : State) (k : Nat), 1 ≤ k ∧ k ≤ 255 ∧ mergeFrom k 0 (startBuild s) = (u, false) := by
  refine ⟨⟨State.reset, startBuild State.reset, rfl⟩,
    ⟨heapE, (merge 0 (startBuild heapE)).1, 1, by decide, by decide, ?_⟩⟩
  simp only [mergeFrom, merge_first_fits]
  rfl

theorem witness_BuildMakesTheTree : ∃ s : State, s.PHASE = .train ∧ flooredSum s ≤ 2 ^ 32 - 1 :=
  ⟨State.reset, rfl, by decide +kernel⟩

/-- T41-4: the greatest count a leaf can have. -/
theorem witness_BuildOverflowFaults : ∃ s : State, s.PHASE = .train ∧ s.MCOUNT = 0#9 ∧ 2 ^ 32 - 1 < flooredSum s :=
  ⟨{ State.reset with NFREQ := writeAt State.reset.NFREQ 0 0xFFFFFFFF#32 }, rfl, rfl, by decide +kernel⟩

theorem witness_BuildDependsOnCountsOnly :
    ∃ s s' t t' : State, s.PHASE = .train ∧ s'.PHASE = .train ∧ (∀ b, b < 256 → readAt s.NFREQ b = readAt s'.NFREQ b) ∧
      s.HSIZE ≠ s'.HSIZE ∧ exec .build s = .next t ∧ exec .build s' = .next t' :=
  ⟨State.reset, { State.reset with HSIZE := 5#9 }, buildTree State.reset, buildTree { State.reset with HSIZE := 5#9 },
    rfl, rfl, fun _ _ => rfl, by decide, exec_build_of_train rfl, exec_build_of_train rfl⟩

/-- A floored sum within the bound, and a prefix code of the 256 bytes. -/
theorem witness_BuiltTreeIsOptimal :
    (∃ s : State, s.PHASE = .train ∧ flooredSum s ≤ 2 ^ 32 - 1) ∧
    ∃ code : Byte → List Bool, ∀ b c, b ≠ c → ¬ code b <+: code c := by
  refine ⟨witness_BuildMakesTheTree, bitsOf, fun b c hbc hp => hbc ?_⟩
  have e : bitsOf b = bitsOf c := hp.eq_of_length (by simp [bitsOf])
  apply BitVec.eq_of_getLsbD_eq
  intro j hj
  have := congrArg (fun l : List Bool => l[j]?) e
  simpa [bitsOf, hj] using this

theorem witness_AssignWritesPaths :
    ∃ s : State, s.PHASE = .built ∧ builtTree s ∧ (∀ p b, leafPath s p b → p.length ≤ 32) ∧ ∃ p b, leafPath s p b :=
  ⟨balanced, rfl, builtTree_balanced, shallow_balanced, _, 0xFF#8, leafPath_balanced 0xFF#8⟩

/-- The chain is a built tree. -/
theorem builtTree_chain : builtTree chain := by
  have hl : ∀ k, k < 255 → (readAt chain.NLEFT k).toNat = k + 1 := by
    intro k hk; simp [chain, hk]; omega
  have hr : ∀ k, k < 255 → (readAt chain.NRIGHT k).toNat = if k = 0 then 0 else 255 + k := by
    intro k hk
    simp [chain, hk]
    split <;> omega
  refine ⟨rfl, fun k hk => ⟨by rw [hl k hk]; omega, by rw [hr k hk]; split <;> omega⟩, fun h hh => ?_⟩
  have hc : ∀ k bit, k < 255 → (isChildOf chain h k bit ↔
      if bit = true then (if k = 0 then 0 else 255 + k) = h else k + 1 = h) := by
    intro k bit hk
    cases bit <;> simp [isChildOf, hl k hk, hr k hk]
  by_cases h0 : h = 0
  · refine ⟨0, true, by omega, by rw [hc _ _ (by omega)]; simp [h0], fun k' bit' hk' hch => ?_⟩
    rw [hc _ _ hk'] at hch
    cases bit'
    · simp at hch; omega
    · simp at hch ⊢; split at hch <;> omega
  · by_cases h1 : h ≤ 255
    · refine ⟨h - 1, false, by omega, by rw [hc _ _ (by omega)]; simp; omega, fun k' bit' hk' hch => ?_⟩
      rw [hc _ _ hk'] at hch
      cases bit'
      · simp at hch ⊢; omega
      · simp at hch ⊢; split at hch <;> omega
    · refine ⟨h - 255, true, by omega, ?_, fun k' bit' hk' hch => ?_⟩
      · rw [hc _ _ (by omega)]
        have : h - 255 ≠ 0 := by omega
        simp [this]; omega
      · rw [hc _ _ hk'] at hch
        cases bit'
        · simp at hch ⊢; omega
        · simp at hch ⊢; split at hch <;> omega

/-- 32 right edges and a left one lead to a leaf at depth 33. -/
theorem deep_chain : leafPath chain (List.replicate 32 true ++ [false]) 223#8 := by
  unfold leafPath
  decide +kernel

theorem witness_AssignFaultsOnDeepLeaf :
    ∃ s : State, s.PHASE = .built ∧ builtTree s ∧ ∃ p b, leafPath s p b ∧ 32 < p.length :=
  ⟨chain, rfl, builtTree_chain, _, _, deep_chain, by simp⟩

/-- An ASSIGN without fault. -/
theorem assign_completes :
    ∃ s t : State, s.PHASE = .built ∧ builtTree s ∧ exec .assign s = .next t ∧ t.PHASE = .assigned :=
  ⟨balanced, execNext .assign balanced, rfl, builtTree_balanced, eq_next_of_isNext _ assign_balanced.1, assign_balanced.2⟩

theorem witness_CodesArePrefixFree :
    ∃ s t : State, s.PHASE = .built ∧ builtTree s ∧ exec .assign s = .next t ∧ t.PHASE = .assigned := assign_completes

theorem witness_CodeLengthsFillKraft :
    ∃ s t : State, s.PHASE = .built ∧ builtTree s ∧ exec .assign s = .next t ∧ t.PHASE = .assigned := assign_completes

theorem witness_OneAllZeroCode :
    ∃ s t : State, s.PHASE = .built ∧ builtTree s ∧ exec .assign s = .next t ∧ t.PHASE = .assigned := assign_completes

/-- A writer with no bit below its index set is clean. -/
theorem clean_assigned : writerClean assigned := by
  intro j _
  have : assigned.WBUF = 0#8 := rfl
  simp [this]

theorem witness_WriteBitFillsByte :
    (∃ s : State, writerClean s ∧ s.WIDX.toNat < 7) ∧ ∃ s : State, writerClean s ∧ s.WIDX.toNat = 7 :=
  ⟨⟨assigned, clean_assigned, by decide⟩,
    ⟨{ assigned with WIDX := 7#3 }, fun j _ => clean_assigned j (Nat.zero_le _), rfl⟩⟩

theorem witness_EncPacksTheCode : ∃ s : State, s.PHASE = .assigned ∧ writerClean s := ⟨assigned, rfl, clean_assigned⟩

theorem witness_FlushAlwaysEmitsOneByte :
    (∃ s : State, s.PHASE = .assigned ∧ writerClean s ∧ s.WIDX = 0#3) ∧
      (∃ s : State, s.PHASE = .assigned ∧ writerClean s ∧ s.WIDX = 7#3 ∧ s.WBUF = 0x7F#8) ∧
      (∃ s : State, s.PHASE = .train) ∧ ∃ s : State, s.PHASE = .built := by
  refine ⟨⟨assigned, rfl, clean_assigned, rfl⟩, ⟨{ assigned with WBUF := 0x7F#8, WIDX := 7#3 }, rfl, ?_, rfl, rfl⟩,
    ⟨State.reset, rfl⟩, ⟨balanced, rfl⟩⟩
  intro j hj
  have h7 : 7 ≤ j := hj
  by_cases h : j = 7
  · subst h; rfl
  · exact BitVec.getLsbD_of_ge _ _ (by omega)

theorem witness_WriteSessionBytes : ∃ s : State, s.PHASE = .assigned ∧ s.WBUF = 0#8 ∧ s.WIDX = 0#3 := ⟨assigned, rfl, rfl, rfl⟩

theorem witness_InReadAttempt :
    (∃ s : State, s.EOF = true) ∧ (∃ s : State, s.EOF = false ∧ s.IN = []) ∧
    (∃ s : State, s.EOF = false ∧ s.IN = [.byte 0xFF#8]) ∧ ∃ s : State, s.EOF = false ∧ s.IN = [.endMark] :=
  ⟨⟨{ State.reset with EOF := true }, rfl⟩, ⟨State.reset, rfl, rfl⟩,
    ⟨{ State.reset with IN := [.byte 0xFF#8] }, rfl, rfl⟩, ⟨{ State.reset with IN := [.endMark] }, rfl, rfl⟩⟩

/-- A bit inside the byte, and the last bit before `End`. -/
theorem witness_ReadBitTakesNextBit :
    (∃ s r t, readBit s = some (r, t) ∧ sessionEnds s ∧ s.RIDX = 6#3) ∧
    ∃ s r t, readBit s = some (r, t) ∧ sessionEnds s ∧ s.RIDX = 7#3 :=
  ⟨⟨reading 0x41#8 6#3 [.endMark], _, _, rfl, .inr (by simp [reading]), rfl⟩,
    ⟨reading 0x41#8 7#3 [.endMark], _, _, rfl, .inr (by simp [reading]), rfl⟩⟩

theorem witness_DopenOpensReader :
    (∃ s : State, s.PHASE = .built ∧ s.IN = []) ∧ (∃ s : State, s.PHASE = .assigned ∧ s.IN = [.byte 0x00#8]) ∧
    (∃ s : State, s.PHASE = .built ∧ s.IN = [.endMark]) ∧ ∃ s : State, s.PHASE = .train :=
  ⟨⟨balanced, rfl, rfl⟩, ⟨{ assigned with IN := [.byte 0x00#8] }, rfl, rfl⟩,
    ⟨{ balanced with IN := [.endMark] }, rfl, rfl⟩, ⟨State.reset, rfl⟩⟩

/-- The path of byte 0x41 in the last byte of a session. -/
theorem witness_DsymDecodesOnePath :
    (∃ (s : State) (p : List Bool) (b : Byte), (s.PHASE = .built ∨ s.PHASE = .assigned) ∧ s.RD_OPEN = true ∧
      s.DSTATE = .atRoot ∧ s.EOF = false ∧ Token.endMark ∈ s.IN ∧ leafPath s p b ∧ 1 ≤ p.length ∧ p.length ≤ 255 ∧
      ∀ j, j < p.length → p[j]? = some (futureBit s j)) ∧
    ∃ (s : State) (p : List Bool) (b : Byte), (s.PHASE = .built ∨ s.PHASE = .assigned) ∧ s.RD_OPEN = true ∧
      s.DSTATE = .atRoot ∧ s.EOF = false ∧ Token.endMark ∉ s.IN ∧ p.length < (unreadBits s).length ∧ leafPath s p b ∧
      1 ≤ p.length ∧ p.length ≤ 255 ∧ ∀ j, j < p.length → p[j]? = some (futureBit s j) := by
  refine ⟨⟨reading 0x82#8 0#3 [.endMark], bytePath 0x41, 0x41#8, .inl rfl, rfl, rfl, rfl, by simp [reading], ?_, by decide,
    by decide, by decide⟩,
    ⟨reading 0x82#8 0#3 [.byte 0x00#8], bytePath 0x41, 0x41#8, .inl rfl, rfl, rfl, rfl, by simp [reading], by decide, ?_,
      by decide, by decide, by decide⟩⟩ <;>
  · unfold leafPath
    decide +kernel

theorem witness_DsymFindsTheEnd :
    ∃ s : State, (s.PHASE = .built ∨ s.PHASE = .assigned) ∧ s.RD_OPEN = true ∧ s.DSTATE = .atRoot ∧ s.EOF = true :=
  ⟨{ reading 0x00#8 0#3 [] with EOF := true }, .inl rfl, rfl, rfl, rfl⟩

theorem witness_EndIsSticky :
    ∃ (s t : State) (i : Instr), s.END = true ∧ s.EOF = true ∧ s.DSTATE = .atRoot ∧ i ≠ .dopen ∧ i ≠ .clear ∧
      exec i s = .next t ∧ i = .dsym :=
  ⟨{ reading 0x00#8 0#3 [] with EOF := true, END := true }, _, .dsym, rfl, rfl, rfl, by decide, by decide, rfl, rfl⟩

theorem witness_DsymHoldsOnEmptyInput :
    (∃ s : State, (s.PHASE = .built ∨ s.PHASE = .assigned) ∧ s.RD_OPEN = true ∧ s.EOF = false ∧ s.RIDX = 7#3 ∧ s.IN = [] ∧
      s.DSTATE = .atRoot) ∧
    ∃ s : State, (s.PHASE = .built ∨ s.PHASE = .assigned) ∧ s.RD_OPEN = true ∧ s.EOF = false ∧ s.RIDX = 7#3 ∧ s.IN = [] ∧
      s.DSTATE = .descending :=
  ⟨⟨reading 0x00#8 7#3 [], .inl rfl, rfl, rfl, rfl, rfl, rfl⟩,
    ⟨{ reading 0x00#8 7#3 [] with DSTATE := .descending, DNODE := 256#9 }, .inl rfl, rfl, rfl, rfl, rfl, rfl⟩⟩

/-- A DSYM that holds after 7 bits, and a DOPEN that holds. -/
theorem held_dsym :
    isNext (exec .dsym (reading 0xD8#8 0#3 [])) = true ∧ (execNext .dsym (reading 0xD8#8 0#3 [])).BUSY = true := by
  decide +kernel

theorem witness_OnlyReaderCommandsHold :
    (∃ (s t : State) (i : Instr), s.BUSY = false ∧ exec i s = .next t ∧ t.BUSY = true ∧ i = .dopen) ∧
    ∃ (s t : State) (i : Instr), s.BUSY = false ∧ exec i s = .next t ∧ t.BUSY = true ∧ i = .dsym :=
  ⟨⟨balanced, { balanced with BUSY := true }, .dopen, rfl, rfl, rfl, rfl⟩,
    ⟨reading 0xD8#8 0#3 [], execNext .dsym (reading 0xD8#8 0#3 []), .dsym, rfl, eq_next_of_isNext _ held_dsym.1, held_dsym.2, rfl⟩⟩

theorem witness_HoldIsTransparent :
    ∃ s t : State, (s.PHASE = .built ∨ s.PHASE = .assigned) ∧ s.RD_OPEN = true ∧ s.ROOT = 510#9 ∧ olderChildren s ∧
      (s.DSTATE = .descending → 256 ≤ s.DNODE.toNat ∧ s.DNODE.toNat ≤ 510) ∧ exec .dsym s = .next t ∧ t.BUSY = true :=
  ⟨reading 0xD8#8 0#3 [], execNext .dsym (reading 0xD8#8 0#3 []), .inl rfl, rfl, rfl, builtTree_balanced.2.1,
    nofun, eq_next_of_isNext _ held_dsym.1, held_dsym.2⟩

theorem witness_WriterCommandFrame :
    (∃ (s t : State) (b : Byte), exec (.enc b) s = .next t ∧ t.PHASE = .assigned) ∧
    ∃ s t : State, exec .flush s = .next t ∧ t.PHASE = .assigned :=
  ⟨⟨assigned, writeBits (codeBits assigned 0x41#8) assigned, 0x41#8, exec_enc_of_assigned _ rfl, by
      have h := (writeBits_frame (codeBits assigned 0x41#8) assigned).2.2.2.1
      rw [h.1]; rfl⟩,
    ⟨assigned, { assigned with OUT := assigned.OUT ++ [assigned.WBUF], WBUF := 0#8, WIDX := 0#3 }, rfl, rfl⟩⟩

theorem witness_ReaderCommandFrame :
    (∃ s t : State, exec .dopen s = .next t ∧ t.PHASE = .built) ∧ ∃ s t : State, exec .dsym s = .next t ∧ t.BUSY = true :=
  ⟨⟨balanced, { balanced with BUSY := true }, rfl, rfl⟩,
    ⟨reading 0xD8#8 0#3 [], execNext .dsym (reading 0xD8#8 0#3 []), eq_next_of_isNext _ held_dsym.1, held_dsym.2⟩⟩

theorem witness_TreeCommandFrame :
    (∃ (s t : State) (b : Byte), exec (.train b) s = .next t ∧ t.PHASE = .train) ∧
    (∃ s t : State, exec .build s = .next t ∧ s.PHASE = .train) ∧
    ∃ s t : State, exec .assign s = .next t ∧ t.PHASE = .assigned :=
  ⟨⟨{ State.reset with NFREQ := tabulate 511 fun _ => 1#32 },
      countByte 0xFF#8 { State.reset with NFREQ := tabulate 511 fun _ => 1#32 }, 0xFF#8,
      exec_train_of_train _ rfl (by decide +kernel), rfl⟩,
    ⟨State.reset, buildTree State.reset, exec_build_of_train rfl, rfl⟩,
    ⟨balanced, execNext .assign balanced, eq_next_of_isNext _ assign_balanced.1, assign_balanced.2⟩⟩

/-- The invariant holds of a state in which a DOPEN is held. -/
theorem inv_held : Inv { balanced with BUSY := true, CUR_CMD := 0x7000#16 } := by
  refine ⟨by decide, by decide, by decide, by decide, by decide, fun _ => rfl, nofun,
    fun _ => ⟨rfl, rfl, rfl, builtTree_balanced.2.1⟩, ?_, fun _ => ⟨rfl, rfl⟩, fun _ => ⟨rfl, rfl, rfl⟩, by decide,
    fun _ => ⟨rfl, .inl rfl, .inl rfl⟩, nofun⟩
  intro j _
  have : balanced.WBUF = 0#8 := rfl
  simp [this]

theorem witness_StepAnswersAndKeepsInv : ∃ s : State, Inv s ∧ s.BUSY = true := ⟨_, inv_held, rfl⟩

/-- The assigned state with its sums meets both invariants, and a step answers. -/
theorem witness_StepKeepsCodecInv : ∃ s t : State, Inv s ∧ CodecInv s ∧ s.PHASE = .assigned ∧ step s = .next t := by
  have hb : builtTree assigned := builtTree_balanced
  refine ⟨assigned, assigned, ?_, ⟨fun _ => ⟨hb, ?_⟩, fun _ => codesArePaths_assigned⟩, rfl, rfl⟩
  · refine ⟨by decide, by decide, by decide, by decide, by decide, fun _ => rfl, nofun,
      fun _ => ⟨rfl, rfl, rfl, hb.2.1⟩, clean_assigned, (by rintro (h | h) <;> cases h),
      fun _ => ⟨rfl, rfl, rfl⟩, by decide, nofun, nofun⟩
  · have hw : ∀ k, k < 255 → 2 ^ height (256 + k) = 2 ^ height (2 * k) + 2 ^ height (2 * k + 1) ∧ height (256 + k) ≤ 8 ∧
        height (2 * k) ≤ 8 ∧ height (2 * k + 1) ≤ 8 := by decide +kernel
    have ht : ∀ n, n ≤ 8 → (BitVec.ofNat 32 (2 ^ n)).toNat = 2 ^ n := by decide
    intro k hk
    obtain ⟨h1, h2, h3, h4⟩ := hw k hk
    have el : (readAt assigned.NLEFT k) = BitVec.ofNat 9 (2 * k) := by simp [assigned, balanced, hk]
    have er : (readAt assigned.NRIGHT k) = BitVec.ofNat 9 (2 * k + 1) := by simp [assigned, balanced, hk]
    have e1 : (BitVec.ofNat 9 (2 * k)).toNat = 2 * k := by simp; omega
    have e2 : (BitVec.ofNat 9 (2 * k + 1)).toNat = 2 * k + 1 := by simp; omega
    have ef : ∀ i, i < 511 → readAt assigned.NFREQ i = BitVec.ofNat 32 (2 ^ height i) := by
      intro i hi; simp [assigned, hi]
    rw [el, er]
    simp only [State.nfreq, e1, e2, ef (256 + k) (by omega), ef (2 * k) (by omega), ef (2 * k + 1) (by omega), ht _ h2, ht _ h3,
      ht _ h4]
    exact h1

theorem witness_CountedDecodeIsExact :
    ∃ (s t u : State) (payload bytes : List Byte) (rest : List Token) (n : Nat), s.PHASE = .assigned ∧ codesArePaths s ∧
      s.WBUF = 0#8 ∧ s.WIDX = 0#3 ∧ runCommands (Pseudo.encode payload) s = .next t ∧ t.OUT = s.OUT ++ bytes ∧
      (u.PHASE = .built ∨ u.PHASE = .assigned) ∧ u.NLEFT = s.NLEFT ∧ u.NRIGHT = s.NRIGHT ∧ u.ROOT = s.ROOT ∧
      u.IN = bytes.map .byte ++ .endMark :: rest ∧ n ≤ payload.length ∧ 1 ≤ n :=
  ⟨assigned, nextOf State.reset (runCommands (Pseudo.encode [0x41#8]) assigned), reader41, [0x41#8], [0x82#8, 0x00#8], [], 1,
    rfl, codesArePaths_assigned, rfl, rfl, eq_next_of_isNext _ encode41.1, encode41.2, .inl rfl, rfl, rfl, rfl, rfl, by decide,
    by decide⟩

/-- The empty payload, whose session is the one byte 0: the case of the most padding. -/
theorem witness_PaddingDecodesToZeroLeaf :
    ∃ (s t u : State) (payload bytes : List Byte) (rest : List Token) (z : Byte) (d0 : Nat), s.PHASE = .assigned ∧
      codesArePaths s ∧ s.WBUF = 0#8 ∧ s.WIDX = 0#3 ∧ runCommands (Pseudo.encode payload) s = .next t ∧
      t.OUT = s.OUT ++ bytes ∧ (u.PHASE = .built ∨ u.PHASE = .assigned) ∧ u.NLEFT = s.NLEFT ∧ u.NRIGHT = s.NRIGHT ∧
      u.ROOT = s.ROOT ∧ u.IN = bytes.map .byte ++ .endMark :: rest ∧ leafPath s (List.replicate d0 false) z ∧ 1 ≤ d0 :=
  ⟨assigned, _, { balanced with IN := [.byte 0#8, .endMark] }, [], [0#8], [], 0x00#8, 8, rfl, codesArePaths_assigned, rfl,
    rfl, flush_assigned, rfl, .inl rfl, rfl, rfl, rfl, rfl, leafPath_assigned 0x00#8, by decide⟩

end Sys2Proof.Tests
end

/-! SUPPORT. The word of a command is the only one that decodes to it (30_encoding.md R60 to R63). -/

namespace Sys2Proof

/-- R60: a word is its three fields, `OP` first. -/
theorem CmdWord.fields_append (w : CmdWord) : CmdWord.op w ++ CmdWord.rsv w ++ CmdWord.imm8 w = w := by
  apply BitVec.eq_of_getLsbD_eq
  intro j hj
  simp only [CmdWord.op, CmdWord.rsv, CmdWord.imm8, BitVec.getLsbD_append, BitVec.getLsbD_extractLsb']
  by_cases h8 : j < 8
  · simp [h8]
  · by_cases h12 : j < 12
    · have e : 8 + (j - 8) = j := by omega
      have l : j - 8 < 4 := by omega
      simp [h8, e, l]
    · have e : 12 + (j - 8 - 4) = j := by omega
      have l : ¬ j - 8 < 4 := by omega
      have l' : j - 8 - 4 < 4 := by omega
      simp [h8, e, l, l']

/-- R62: a command without operand has the opcode it is decoded from, and no operand bits. -/
theorem decodePlain_fields {o : BitVec 4} {i : Instr} (h : decodePlain o = some i) : i.op = o ∧ i.imm8 = 0#8 := by
  unfold decodePlain at h
  split at h <;> cases h <;> exact ⟨BitVec.eq_of_toNat_eq (by simp_all [Instr.op]), rfl⟩

/-- R62, R63: a decoded word has the opcode and the operand of its command, and `RSV = 0`. -/
theorem decode_fields {w : CmdWord} {i : Instr} (h : decode w = some i) :
    CmdWord.rsv w = 0#4 ∧ i.op = CmdWord.op w ∧ i.imm8 = CmdWord.imm8 w := by
  unfold decode at h
  split at h
  next hr =>
    refine ⟨hr, ?_⟩
    split at h
    next ho => cases h; exact ⟨ho.symm, rfl⟩
    next =>
      split at h
      next ho => cases h; exact ⟨ho.symm, rfl⟩
      next =>
        split at h
        next hi => rw [hi]; exact decodePlain_fields h
        next => cases h
  next => cases h

/-- R60, R63: a word that decodes to a command is the word of that command. -/
theorem encode_of_decode {w : CmdWord} {i : Instr} (h : decode w = some i) : encode i = w := by
  obtain ⟨hr, ho, hi⟩ := decode_fields h
  rw [encode, ho, hi, ← hr, CmdWord.fields_append]

end Sys2Proof

/-! SUPPORT. What each command can answer, once: every command but CLEAR passes the checks of R65 and then runs its own
part (`run`), and each part answers one of a few named updates. -/

namespace Sys2Proof.Machine

/-! ## A command is the checks of R65, then its own part -/

/-- What a command does where its phase admits it. -/
def run : Instr → State → Outcome
  | .nop, s => .next s
  | .clear, s => .next (toReset s)
  | .train b, s =>
    if (s.nfreq (leafOf b)).toNat = Config.FREQ_MAX then .next (raiseFault s .countOverflow (byteInfo b))
    else .next (countByte b s)
  | .build, s => .next (buildTree s)
  | .assign, s => finishAssign { s with DRAWS := s.DRAWS + 1 } (walkTree s (freshTable s.DRAWS))
  | .enc b, s => .next (writeBits (codeBits s b) s)
  | .flush, s => .next { outWrite s s.WBUF with WBUF := 0#8, WIDX := 0#3 }
  | .dopen, s =>
    match s.IN with
    | [] => .next (hold s)
    | _ =>
      match inRead { s with EOF := false } with
      | none => .next (hold s)
      | some (b, t) => .next (openReader b t)
  | .dsym, s =>
    if s.DSTATE = .atRoot then
      if s.EOF then .next (endOfStream s)
      else descend (descendFuel s) { s with DNODE := s.ROOT }
    else descend (descendFuel s) s

/-- R81: CLEAR is executed in every phase. -/
@[simp] theorem exec_clear (s : State) : exec .clear s = .next (toReset s) := rfl

/-- R65: every other command passes the checks first. -/
theorem exec_eq_guarded {i : Instr} (h : i ≠ .clear) (s : State) : exec i s = guarded i s (run i) := by
  cases i with
  | clear => exact absurd rfl h
  | _ => rfl

/-- R64: a command its phase admits runs. -/
theorem exec_of_ok {i : Instr} {s : State} (h : i ≠ .clear) (hp : s.PHASE ≠ .fault)
    (hok : phaseOk i s.PHASE s.RD_OPEN = true) : exec i s = run i s :=
  (exec_eq_guarded h s).trans (guarded_of_ok hp hok)

/-- The four ways a command answers a next state. -/
theorem exec_cases {i : Instr} {s t : State} (h : exec i s = .next t) :
    (i = .clear ∧ t = toReset s) ∨
    (i ≠ .clear ∧ s.PHASE = .fault ∧ t = s) ∨
    (i ≠ .clear ∧ s.PHASE ≠ .fault ∧ phaseOk i s.PHASE s.RD_OPEN = false ∧
      t = raiseFault s .sequence (sequenceInfo s.PHASE i)) ∨
    (i ≠ .clear ∧ s.PHASE ≠ .fault ∧ phaseOk i s.PHASE s.RD_OPEN = true ∧ run i s = .next t) := by
  by_cases hi : i = .clear
  · subst hi
    exact .inl ⟨rfl, by simpa [eq_comm] using h⟩
  · rw [exec_eq_guarded hi] at h
    obtain ⟨hp, e⟩ | ⟨hp, hok, e⟩ | ⟨hp, hok, e⟩ := guarded_cases h
    · exact .inr (.inl ⟨hi, hp, by simpa using e⟩)
    · exact .inr (.inr (.inr ⟨hi, hp, hok, e.symm⟩))
    · exact .inr (.inr (.inl ⟨hi, hp, hok, by simpa using e⟩))

/-! ## The parts of the commands -/

/-- R82, R162: TRAIN counts its byte or faults. -/
theorem run_train_cases {b : Byte} {s t : State} (h : run (.train b) s = .next t) :
    t = raiseFault s .countOverflow (byteInfo b) ∨ t = countByte b s := by
  simp only [run] at h
  split at h
  · exact .inl (by simpa [eq_comm] using h)
  · exact .inr (by simpa [eq_comm] using h)

/-- R101: BUILD answers what its merges left where one faulted, and the built tree otherwise. -/
theorem buildTree_cases (s : State) :
    (∃ u, mergeFrom 255 0 (startBuild s) = (u, true) ∧ buildTree s = u) ∨
    (∃ u, mergeFrom 255 0 (startBuild s) = (u, false) ∧
      buildTree s = { u with ROOT := readAt u.HEAP 0, PHASE := .built }) := by
  cases h : mergeFrom 255 0 (startBuild s) with
  | mk u faulted =>
    have e : mergeFrom (Config.ALPHABET - 1) 0 (startBuild s) = (u, faulted) := h
    cases faulted
    · exact .inr ⟨u, rfl, by simp [buildTree, e]⟩
    · exact .inl ⟨u, rfl, by simp [buildTree, e]⟩

/-- The floor step and heapify change the tree state only. -/
theorem startBuild_frame (s : State) :
    sameButTree s (startBuild s) ∧ samePhase s (startBuild s) ∧ (startBuild s).DRAWS = s.DRAWS ∧
      (startBuild s).ROOT = s.ROOT ∧ (startBuild s).BUSY = s.BUSY := by
  simp [startBuild, sameButTree, samePhase, sameCodes, sameWriter, sameReader, sameStreams, sameHost]

/-- R110, R112: ASSIGN writes a code table and goes to phase ASSIGNED, or faults on a deep leaf. -/
theorem run_assign_cases {s t : State} (h : run .assign s = .next t) :
    (∃ c, t = { ({ s with DRAWS := s.DRAWS + 1 } : State).withCodeTable c with PHASE := .assigned }) ∨
    (∃ c leaf, t = raiseFault (({ s with DRAWS := s.DRAWS + 1 } : State).withCodeTable c) .codeTooLong leaf) := by
  simp only [run] at h
  cases hw : walkTree s (freshTable s.DRAWS) with
  | done c => rw [hw] at h; cases h; exact .inl ⟨c, rfl⟩
  | tooLong leaf c => rw [hw] at h; cases h; exact .inr ⟨c, leaf.setWidth 16, rfl⟩
  | noSuchNode => rw [hw] at h; cases h
  | endless => rw [hw] at h; cases h

/-- R140: DOPEN holds on an empty `IN` and otherwise opens the reader on the first token. -/
theorem run_dopen_eq (s : State) :
    (s.IN = [] ∧ run .dopen s = .next (hold s)) ∨
    (∃ b u, s.IN ≠ [] ∧ inRead { s with EOF := false } = some (b, u) ∧ run .dopen s = .next (openReader b u)) := by
  by_cases hi : s.IN = []
  · exact .inl ⟨hi, by simp [run, hi]⟩
  · obtain ⟨e, _⟩ | ⟨_, i, _⟩ | ⟨b, r, _, _, q⟩ | ⟨r, _, _, q⟩ := inRead_cases { s with EOF := false }
    · cases e
    · exact absurd i hi
    · exact .inr ⟨b, _, hi, q, by simp [run, q]⟩
    · exact .inr ⟨_, _, hi, q, by simp [run, q]⟩

/-- Where DSYM starts or goes on reading: at the root, or where it held. -/
def descendStart (s : State) : State := if s.DSTATE = .atRoot then { s with DNODE := s.ROOT } else s

/-- R142: DSYM finds the end at the start of a symbol, or descends. -/
theorem run_dsym_eq (s : State) :
    (s.DSTATE = .atRoot ∧ s.EOF = true ∧ run .dsym s = .next (endOfStream s)) ∨
    (¬ (s.DSTATE = .atRoot ∧ s.EOF = true) ∧ run .dsym s = descend (descendFuel s) (descendStart s)) := by
  by_cases hd : s.DSTATE = .atRoot
  · cases he : s.EOF
    · exact .inr ⟨by simp, by simp [run, descendStart, hd, he]⟩
    · exact .inl ⟨hd, rfl, by simp [run, hd, he]⟩
  · exact .inr ⟨by simp [hd], by simp [run, descendStart, hd]⟩

/-- R142: a descent that needs a token that is not there holds. -/
theorem descend_of_hold {s : State} (h : readBit s = none) (fuel : Nat) : descend (fuel + 1) s = .next (hold s) := by
  simp [descend, h]

/-- R142: a descent that reads a bit goes to the child and emits it where it is a leaf. -/
theorem descend_of_child {s u : State} {r : Bool} {d : Handle} {fuel : Nat} (h : readBit s = some (r, u))
    (hc : u.child? u.DNODE r = some d) :
    descend (fuel + 1) s =
      if isLeaf d then .next (emitSymbol (d.setWidth 8) { u with DSTATE := .descending, DNODE := d })
      else descend fuel { u with DSTATE := .descending, DNODE := d } := by
  simp [descend, h, hc]

/-! ## What a read bit and the descent leave -/

/-- R136: a read attempt changes `IN` and `EOF` only, and never clears `EOF`. -/
theorem inRead_eq {s t : State} {b : Byte} (h : inRead s = some (b, t)) :
    t = { s with IN := t.IN, EOF := t.EOF } ∧ (s.EOF = true → t.EOF = true) := by
  obtain ⟨_, e⟩ | ⟨_, _, e⟩ | ⟨_, _, _, _, e⟩ | ⟨_, _, _, e⟩ := inRead_cases s <;> rw [e] at h <;> cases h
  · exact ⟨rfl, id⟩
  · exact ⟨rfl, id⟩
  · exact ⟨rfl, fun _ => rfl⟩

/-- R137: a read bit changes `RBUF`, `RIDX`, `EOF` and `IN` only, and never clears `EOF`. -/
theorem readBit_eq {s t : State} {r : Bool} (h : readBit s = some (r, t)) :
    t = { s with RBUF := t.RBUF, RIDX := t.RIDX, EOF := t.EOF, IN := t.IN } ∧ (s.EOF = true → t.EOF = true) := by
  by_cases h7 : s.RIDX = 7#3
  · rw [readBit_last h7, Option.map_eq_some_iff] at h
    obtain ⟨⟨b, u⟩, hu, e⟩ := h
    obtain ⟨hf, he⟩ := inRead_eq hu
    cases e
    exact ⟨by rw [hf], he⟩
  · rw [readBit_inside h7] at h
    cases h
    exact ⟨rfl, id⟩

end Sys2Proof.Machine

/-! SUPPORT. The merges of BUILD (41_tree_builder.md R99, R101): sizes, counts and the handles they work on. -/

namespace Sys2Proof.Machine

/-! ## The handles in the heap -/

/-- Every slot of the heap array holds a handle below `n`. -/
def heapBelow (n : Nat) (heap : Vector Handle 256) : Prop := ∀ j, (readAt heap j).toNat < n

/-- R40: outside an array the default is read. -/
theorem readAt_outside {α : Type} [Inhabited α] {n : Nat} (v : Vector α n) {i : Nat} (h : n ≤ i) :
    readAt v i = default := by
  simp [readAt, h]

theorem heapBelow_mono {m n : Nat} {heap : Vector Handle 256} (h : heapBelow m heap) (hmn : m ≤ n) : heapBelow n heap :=
  fun j => Nat.lt_of_lt_of_le (h j) hmn

theorem heapBelow_writeAt {n : Nat} {heap : Vector Handle 256} (h : heapBelow n heap) (i : Nat) {x : Handle}
    (hx : x.toNat < n) : heapBelow n (writeAt heap i x) := by
  intro j
  rw [readAt_writeAt]
  split
  · exact hx
  · exact h j

theorem heapBelow_swapSlots {n : Nat} {heap : Vector Handle 256} (h : heapBelow n heap) (i j : Nat) :
    heapBelow n (swapSlots heap i j) :=
  heapBelow_writeAt (heapBelow_writeAt h i (h j)) j (h i)

/-- R94: sift-down moves handles only. -/
theorem heapBelow_siftDownLoop {n : Nat} (nf : Vector Freq 511) (hsize fuel : Nat) :
    ∀ i {heap : Vector Handle 256}, heapBelow n heap → heapBelow n (siftDownLoop nf hsize fuel i heap) := by
  induction fuel with
  | zero => exact fun _ _ h => h
  | succ fuel ih =>
    intro i heap h
    simp only [siftDownLoop]
    split
    · exact h
    · split
      · exact ih _ (heapBelow_swapSlots h _ _)
      · exact h

/-- R96: sift-up moves handles only. -/
theorem heapBelow_siftUpLoop {n : Nat} (nf : Vector Freq 511) (fuel : Nat) :
    ∀ i {heap : Vector Handle 256}, heapBelow n heap → heapBelow n (siftUpLoop nf fuel i heap) := by
  induction fuel with
  | zero => exact fun _ _ h => h
  | succ fuel ih =>
    intro i heap h
    simp only [siftUpLoop]
    split
    · exact h
    · split
      · exact ih _ (heapBelow_swapSlots h _ _)
      · exact h

/-- R96: a handle in slot 0 stays there. -/
@[simp] theorem siftUp_zero (nf : Vector Freq 511) (heap : Vector Handle 256) : siftUp nf 0 heap = heap := by
  simp [siftUp, SIFT_ROUNDS, siftUpLoop]

theorem heapBelow_heapifyFrom {n : Nat} (nf : Vector Freq 511) (m : Nat) :
    ∀ {heap : Vector Handle 256}, heapBelow n heap → heapBelow n (heapifyFrom nf m heap) := by
  induction m with
  | zero => exact fun h => h
  | succ m ih => exact fun h => ih (heapBelow_siftDownLoop nf _ _ m h)

/-- R98: the seeded heap holds leaves. -/
theorem heapBelow_seedHeap : heapBelow 256 seedHeap := by
  intro j
  by_cases h : j < 256
  · rw [readAt_seedHeap h, BitVec.toNat_ofNat]
    omega
  · rw [readAt_outside _ (by omega)]
    decide

/-- R95: extract-min takes a handle of the heap and moves the others. -/
theorem heapBelow_extractMin {n : Nat} {s : State} (h : heapBelow n s.HEAP) :
    (extractMin s).1.toNat < n ∧ heapBelow n (extractMin s).2.HEAP := by
  refine ⟨h 0, ?_⟩
  have moved := heapBelow_writeAt h 0 (h (s.HSIZE - 1#9).toNat)
  simp only [extractMin_fields]
  split
  · exact heapBelow_siftDownLoop _ _ _ 0 moved
  · exact moved

/-- R99: both handles a merge extracts are handles of the heap. -/
theorem extractedPair_below {n : Nat} {s : State} (h : heapBelow n s.HEAP) :
    (extractedPair s).1.toNat < n ∧ (extractedPair s).2.toNat < n ∧ heapBelow n (afterExtracts s).HEAP := by
  obtain ⟨ha, h1⟩ := heapBelow_extractMin h
  obtain ⟨hc, h2⟩ := heapBelow_extractMin h1
  exact ⟨ha, hc, h2⟩

/-- R95: what two extractions leave of the tree. -/
@[simp] theorem afterExtracts_fields (s : State) :
    (afterExtracts s).NFREQ = s.NFREQ ∧ (afterExtracts s).NLEFT = s.NLEFT ∧ (afterExtracts s).NRIGHT = s.NRIGHT ∧
      (afterExtracts s).HSIZE = s.HSIZE - 1#9 - 1#9 ∧ (afterExtracts s).MCOUNT = s.MCOUNT ∧
      (afterExtracts s).ROOT = s.ROOT ∧ (afterExtracts s).DRAWS = s.DRAWS := by
  simp [afterExtracts]

/-! ## The state after `k` merges -/

/-- What holds after `k` merges: the sizes, only handles that exist in the heap, children older than their parents (R91),
and after the last merge its node in slot 0. -/
structure Merging (k : Nat) (s : State) : Prop where
  size : s.HSIZE.toNat = 256 - k
  count : s.MCOUNT.toNat = k
  handles : heapBelow (256 + k) s.HEAP
  older : ∀ j, j < k → (readAt s.NLEFT j).toNat < 256 + j ∧ (readAt s.NRIGHT j).toNat < 256 + j
  top : k = 255 → readAt s.HEAP 0 = 510#9

/-- R101: the floor step and heapify prepare the first merge. -/
theorem merging_startBuild {s : State} (h : s.MCOUNT = 0#9) : Merging 0 (startBuild s) where
  size := rfl
  count := by simp [startBuild, h]
  handles := by
    simp only [startBuild, heapify_fields]
    exact heapBelow_heapifyFrom _ _ heapBelow_seedHeap
  older := nofun
  top := nofun

/-- The logical size after the two extractions of merge `k`. -/
theorem Merging.size_afterExtracts {k : Nat} {s : State} (h : Merging k s) (hk : k < 255) :
    (afterExtracts s).HSIZE.toNat = 254 - k := by
  have hs := h.size
  simp only [afterExtracts_fields]
  bv_omega

/-- R99: a merge that fits makes node `256 + k` of two handles of the heap. -/
theorem Merging.linkNode {k : Nat} {s : State} (h : Merging k s) (hk : k < 255) :
    Merging (k + 1) (linkNode k (extractedPair s).1 (extractedPair s).2 (afterExtracts s)) := by
  obtain ⟨ha, hc, hbelow⟩ := extractedPair_below h.handles
  have hsize := h.size_afterExtracts hk
  have hnode : (BitVec.ofNat 9 (256 + k)).toNat = 256 + k := by
    rw [BitVec.toNat_ofNat]
    omega
  simp only [Machine.linkNode, Config.ALPHABET]
  constructor
  case size =>
    simp only [insertNode_fields, BitVec.toNat_add, hsize]
    simp
    omega
  case count =>
    simp
    omega
  case handles =>
    simp only [insertNode_fields]
    exact heapBelow_siftUpLoop _ _ _ (heapBelow_writeAt (heapBelow_mono hbelow (by omega)) _ (by omega))
  case older =>
    intro j hj
    simp only [insertNode_fields, afterExtracts_fields, readAt_writeAt]
    by_cases e : k = j
    · subst e
      simpa [hk] using ⟨ha, hc⟩
    · simpa [e] using h.older j (by omega)
  case top =>
    intro e
    obtain rfl : k = 254 := by omega
    simp only [insertNode_fields, hsize]
    simp

/-- R99: merge `k`, where it fits and where it faults. -/
theorem merge_merging {k : Nat} {s : State} (h : Merging k s) (hk : k < 255) :
    ((merge k s).2 = false → Merging (k + 1) (merge k s).1) ∧
    ((merge k s).2 = true → (merge k s).1.HSIZE.toNat ≤ 256 ∧ (merge k s).1.MCOUNT.toNat ≤ 255) := by
  by_cases hf : Config.FREQ_MAX < (s.nfreq (extractedPair s).1).toNat + (s.nfreq (extractedPair s).2).toNat
  · rw [merge_of_overflow hf]
    have hsize := h.size_afterExtracts hk
    have hcount := h.count
    refine ⟨nofun, fun _ => ?_⟩
    simp only [raiseFault_fields, hsize]
    simp only [afterExtracts_fields, hcount]
    omega
  · rw [merge_of_fits (by omega)]
    exact ⟨fun _ => h.linkNode hk, nofun⟩

/-- R101: `n` merges from merge `k` on. -/
theorem mergeFrom_merging (n : Nat) : ∀ {k : Nat} {s : State}, Merging k s → k + n ≤ 255 →
    ((mergeFrom n k s).2 = false → Merging (k + n) (mergeFrom n k s).1) ∧
    ((mergeFrom n k s).2 = true →
      (mergeFrom n k s).1.HSIZE.toNat ≤ 256 ∧ (mergeFrom n k s).1.MCOUNT.toNat ≤ 255) := by
  induction n with
  | zero => exact fun h _ => ⟨fun _ => h, nofun⟩
  | succ n ih =>
    intro k s h hk
    obtain ⟨hfits, hfaults⟩ := merge_merging h (by omega)
    cases hf : (merge k s).2
    · simp only [mergeFrom, hf, Bool.false_eq_true, if_false]
      rw [show k + (n + 1) = k + 1 + n by omega]
      exact ih (hfits hf) (by omega)
    · simp only [mergeFrom, hf, if_true]
      exact ⟨nofun, fun _ => hfaults hf⟩

end Sys2Proof.Machine

/-! SUPPORT. On a tree whose children are older than their parents (R91) every walk of ASSIGN ends (R192). -/

namespace Sys2Proof.Machine

/-- R90: the leaves are the handles below 256. -/
theorem isLeaf_iff (h : Handle) : isLeaf h = true ↔ h.toNat < 256 := decide_eq_true_iff

theorem isLeaf_eq_false_iff (h : Handle) : isLeaf h = false ↔ 256 ≤ h.toNat :=
  decide_eq_false_iff_not.trans Nat.not_lt

/-- R91: an internal node has both children, and they are older. -/
theorem child?_older {s : State} (h : olderChildren s) {n : Handle} (hi : 256 ≤ n.toNat) (ho : n.toNat ≤ 510)
    (b : Bool) : ∃ d, s.child? n b = some d ∧ d.toNat < n.toNat := by
  obtain ⟨hl, hr⟩ := h (n.toNat - 256) (by omega)
  refine ⟨_, child?_internal s hi (by omega) b, ?_⟩
  cases b
  · simp only [State.nleft, Config.ALPHABET, Bool.false_eq_true, if_false]
    omega
  · simp only [State.nright, Config.ALPHABET, if_true]
    omega

/-- The walk answers a table: complete, or up to a leaf that is too deep. -/
def WalkEnd.answers : WalkEnd → Prop
  | .done _ => True
  | .tooLong _ _ => True
  | .noSuchNode => False
  | .endless => False

/-- R192: the walk of a subtree ends; its depth is at most the number of internal nodes that are as old. -/
theorem walk_answers {s : State} (ho : olderChildren s) (fuel : Nat) :
    ∀ {h : Handle} {path : List Bool} {t : CodeTable}, h.toNat ≤ 510 → 1 ≤ fuel →
      h.toNat < 255 + fuel → (walk s fuel h path t).answers := by
  induction fuel with
  | zero => intro _ _ _ _ hfuel; omega
  | succ fuel ih =>
    intro h path t hmax _ hlt
    by_cases hl : h.toNat < 256
    · rw [walk_leaf ((isLeaf_iff h).2 hl)]
      split <;> trivial
    · obtain ⟨l, hL, hl'⟩ := child?_older ho (by omega) hmax false
      obtain ⟨r, hR, hr'⟩ := child?_older ho (by omega) hmax true
      rw [walk_internal ((isLeaf_eq_false_iff h).2 (by omega)) hL hR]
      have left := ih (h := l) (path := path ++ [false]) (t := t) (by omega) (by omega) (by omega)
      cases hw : walk s fuel l (path ++ [false]) t with
      | done t' => exact ih (by omega) (by omega) (by omega)
      | tooLong leaf t' => trivial
      | noSuchNode => simp [hw, WalkEnd.answers] at left
      | endless => simp [hw, WalkEnd.answers] at left

/-- R192: the walk of a built tree ends. -/
theorem walkTree_answers {s : State} (ho : olderChildren s) (hr : s.ROOT = 510#9) (t : CodeTable) :
    (walkTree s t).answers := by
  have root : s.ROOT.toNat = 510 := by rw [hr]; rfl
  obtain ⟨l, hL, hl⟩ := child?_older ho (n := s.ROOT) (by omega) (by omega) false
  obtain ⟨r, hR, hr⟩ := child?_older ho (n := s.ROOT) (by omega) (by omega) true
  have ends : ∀ {h : Handle} {path : List Bool} {t : CodeTable}, h.toNat ≤ 510 → (walk s WALK_DEPTH h path t).answers :=
    fun hh => walk_answers ho WALK_DEPTH hh (by decide) (by simp only [WALK_DEPTH]; omega)
  have left := ends (h := l) (path := [false]) (t := t) (by omega)
  simp only [walkTree, hL, hR]
  cases hw : walk s WALK_DEPTH l [false] t with
  | done t' => exact ends (by omega)
  | tooLong leaf t' => trivial
  | noSuchNode => simp [hw, WalkEnd.answers] at left
  | endless => simp [hw, WalkEnd.answers] at left

/-- R110: on a built tree ASSIGN answers a next state. -/
theorem run_assign_answers {s : State} (ho : olderChildren s) (hr : s.ROOT = 510#9) :
    ∃ t, run .assign s = .next t := by
  have ends := walkTree_answers ho hr (freshTable s.DRAWS)
  simp only [run]
  cases hw : walkTree s (freshTable s.DRAWS) with
  | done t => exact ⟨_, rfl⟩
  | tooLong leaf t => exact ⟨_, rfl⟩
  | noSuchNode => simp [hw, WalkEnd.answers] at ends
  | endless => simp [hw, WalkEnd.answers] at ends

/-! ## The writer -/

/-- R120: a bit put at index `i` leaves the bits above it alone. -/
theorem getLsbD_putBit (buf : Byte) {i j : Nat} (x : Bool) (hij : i < j) :
    (putBit buf i x).getLsbD j = buf.getLsbD j := by
  cases x
  · rfl
  · by_cases hj : j < 8
    · have : ¬ j < i := by omega
      have e : ¬ j - i = 0 := by omega
      simp [putBit, hj, this, e]
    · simp [putBit, BitVec.getLsbD_of_ge _ _ (show 8 ≤ j by omega)]

/-- R120: a written bit leaves the bits no write has reached 0. -/
theorem writerClean_writeBit {s : State} (h : writerClean s) (x : Bool) : writerClean (writeBit x s) := by
  intro j hj
  by_cases h7 : s.WIDX = 7#3
  · simp [writeBit, h7]
  · have next : (s.WIDX + 1#3).toNat = s.WIDX.toNat + 1 := by bv_omega
    simp only [writeBit, h7, if_false, next] at hj ⊢
    rw [getLsbD_putBit _ _ (by omega)]
    exact h j (by omega)

end Sys2Proof.Machine

/-! SUPPORT. The invariant `Inv` (10_state.md R34) under the named updates, every command, the retry and the step. -/

namespace Sys2Proof.Machine

/-! ## The invariant under updates of the state -/

/-- `s` with no command held and no descent begun: what `Inv` says of it is what it says of the registers of `s`, whatever
the command in hand. -/
def atRest (s : State) : State := { s with BUSY := false, DSTATE := .atRoot }

theorem Inv.atRest {s : State} (h : Inv s) : Inv (atRest s) :=
  { h with held := nofun, descending := nofun }

/-- No command is held, so no descent has begun (R30). -/
theorem Inv.dstate {s : State} (h : Inv s) (hb : s.BUSY = false) : s.DSTATE = .atRoot := by
  cases hd : s.DSTATE with
  | atRoot => rfl
  | descending =>
    obtain ⟨hb', _⟩ := h.descending hd
    exact absurd (hb.symm.trans hb') nofun

/-- R14: before a fault there is no fault code. -/
theorem Inv.noErr {s : State} (h : Inv s) (hp : s.PHASE ≠ .fault) : s.ERR = .none := by
  by_contra hne
  exact hp (h.faulted.2 hne)

/-- No clause reads these elements. -/
theorem Inv.withUnread {s : State} (h : Inv s) (nf : Vector Freq 511) (heap : Vector Handle 256) (c : CodeTable)
    (b : Byte) (out : List Byte) (q : List HostAction) (rd : List (RegAddr × Word32)) (n : Nat) :
    Inv { s with NFREQ := nf, HEAP := heap, CODE := c.CODE, LEN := c.LEN, DSYM := b, OUT := out, HOSTQ := q,
                 HREADS := rd, DRAWS := n } :=
  { h with }

/-- While no command is held, no clause reads `CUR_CMD` or `IN`. -/
theorem Inv.withIdle {s : State} (h : Inv s) (hb : s.BUSY = false) (w : CmdWord) (q : List Token) (n : Nat) :
    Inv { s with CUR_CMD := w, IN := q, DRAWS := n } :=
  { h with
    held := fun hb' => absurd (hb.symm.trans hb') nofun
    descending := fun hd => absurd ((h.dstate hb).symm.trans hd) nofun }

/-- R160: the fault entry ends in a state of phase FAULT with its code. -/
theorem Inv.raiseFault {s : State} (h : Inv s) (hd : s.DSTATE = .atRoot) {c : ErrCode} (hc : c ≠ .none)
    (info : BitVec 16) : Inv (raiseFault s c info) :=
  { h with
    faulted := by simp [hc]
    info := fun e => absurd e hc
    training := nofun
    tree := by simp
    idleWriter := by simp
    held := nofun
    descending := fun e => absurd (hd.symm.trans e) nofun }

/-- R35: the reset values meet the invariant. -/
theorem inv_toReset (s : State) : Inv (toReset s) where
  hsize := by simp
  mcount := by simp
  root := by simp
  dnode := by simp
  faulted := by simp
  info := fun _ => rfl
  training := fun _ => ⟨rfl, rfl, rfl, rfl⟩
  tree := by simp
  writer := fun j _ => by simp
  idleWriter := fun _ => ⟨rfl, rfl⟩
  closed := fun _ => ⟨rfl, rfl, rfl⟩
  ended := nofun
  held := nofun
  descending := nofun

/-- U3: retiring a command keeps the invariant. -/
theorem Inv.retire {s : State} (h : Inv s) : Inv (retire s) := by
  cases hb : s.BUSY
  · rw [retire_of_idle hb]
    exact h.withIdle hb _ s.IN _
  · rw [retire_of_busy hb]
    exact h

/-! ## An open reader -/

/-- An open reader in a phase with a tree: reader, decoder, `BUSY` and the streams may change, as long as `END` comes
with `EOF`, `DNODE` names a node, and a hold and a descent have their shape. -/
theorem inv_of_opened {s t : State} (h : Inv (atRest s)) (hp : s.PHASE = .built ∨ s.PHASE = .assigned)
    (e : t = { s with RBUF := t.RBUF, RIDX := t.RIDX, EOF := t.EOF, RD_OPEN := true, END := t.END, DSTATE := t.DSTATE,
                      DNODE := t.DNODE, DSYM := t.DSYM, DSYM_VALID := t.DSYM_VALID, IN := t.IN, OUT := t.OUT,
                      BUSY := t.BUSY })
    (ended : t.END = true → t.EOF = true) (dnode : t.DNODE.toNat ≤ 510)
    (held : t.BUSY = true → t.IN = [] ∧
      (t.CUR_CMD = 0x7000#16 ∨ (t.CUR_CMD = 0x8000#16 ∧ t.EOF = false ∧ t.RIDX = 7#3)))
    (descending : t.DSTATE = .descending → t.BUSY = true ∧ t.CUR_CMD = 0x8000#16 ∧ 256 ≤ t.DNODE.toNat) : Inv t := by
  rw [e] at ended dnode held descending ⊢
  refine { h with dnode, training := ?_, closed := nofun, ended, held := ?_, descending }
  · intro ht
    rcases hp with hp | hp <;> exact absurd (hp.symm.trans ht) nofun
  · intro hb
    obtain ⟨hi, hw⟩ := held hb
    refine ⟨hi, hp, hw.imp_right ?_⟩
    rintro ⟨hc, he, hx⟩
    exact ⟨hc, rfl, he, hx⟩

/-! ## DOPEN and DSYM -/

/-- R140: DOPEN, first tried or retried. -/
theorem run_dopen_keeps_inv {s : State} (h : Inv (atRest s)) (hp : s.PHASE = .built ∨ s.PHASE = .assigned)
    (hw : s.CUR_CMD = 0x7000#16) (hd : s.DSTATE = .atRoot) : ∃ t, run .dopen s = .next t ∧ Inv t := by
  obtain ⟨hi, e⟩ | ⟨b, u, _, hu, e⟩ := run_dopen_eq s
  · exact ⟨_, e, { h with
      held := fun _ => ⟨hi, hp, .inl hw⟩
      descending := fun hd' => absurd (hd.symm.trans hd') nofun }⟩
  · obtain ⟨hf, _⟩ := inRead_eq hu
    refine ⟨_, e, inv_of_opened h hp (by rw [hf]; rfl) nofun ?_ nofun nofun⟩
    rw [hf]
    exact h.dnode

/-- The state of a descent: it stands on an internal node of a built tree, with the reader open. -/
structure Reading (s : State) : Prop where
  rest : Inv (atRest s)
  phase : s.PHASE = .built ∨ s.PHASE = .assigned
  opened : s.RD_OPEN = true
  word : s.CUR_CMD = 0x8000#16
  inner : 256 ≤ s.DNODE.toNat

/-- R137, R47: the descent holds. -/
theorem Reading.inv_hold {s : State} (h : Reading s) (hr : readBit s = none) : Inv (hold s) := by
  obtain ⟨h7, he, hi⟩ := (readBit_eq_none s).1 hr
  refine inv_of_opened h.rest h.phase ?_ h.rest.ended h.rest.dnode (fun _ => ⟨hi, .inr ⟨h.word, he, h7⟩⟩)
    fun _ => ⟨rfl, h.word, h.inner⟩
  simp [hold, ← h.opened]

/-- R137: the descent takes a bit. -/
theorem Reading.readBit {s u : State} {r : Bool} (h : Reading s) (hr : readBit s = some (r, u)) :
    Reading u ∧ u.DNODE = s.DNODE := by
  obtain ⟨e, heof⟩ := readBit_eq hr
  have rest : Inv (Machine.atRest u) := by
    refine inv_of_opened h.rest h.phase ?_ ?_ ?_ nofun nofun
    · rw [e, ← h.opened]
      rfl
    · rw [e]
      exact fun hend => heof (h.rest.ended hend)
    · rw [e]
      exact h.rest.dnode
  rw [e]
  rw [e] at rest
  exact ⟨⟨rest, h.phase, h.opened, h.word, h.inner⟩, rfl⟩

/-- R141: the descent moves to an internal child. -/
theorem Reading.toChild {s : State} (h : Reading s) {d : Handle} (hi : 256 ≤ d.toNat) (hm : d.toNat ≤ 510) :
    Reading { s with DSTATE := .descending, DNODE := d } where
  rest := by
    refine inv_of_opened h.rest h.phase ?_ h.rest.ended hm nofun nofun
    rw [← h.opened]
    rfl
  phase := h.phase
  opened := h.opened
  word := h.word
  inner := hi

/-- R142: the descent reaches a leaf. -/
theorem Reading.inv_emitSymbol {s : State} (h : Reading s) {d : Handle} (hm : d.toNat ≤ 510) (b : Byte) :
    Inv (emitSymbol b { s with DSTATE := .descending, DNODE := d }) := by
  refine inv_of_opened h.rest h.phase ?_ h.rest.ended hm nofun nofun
  rw [← h.opened]
  rfl

/-- R192: the descent ends, because each child is older than its parent, and leaves the invariant. -/
theorem descend_keeps_inv (fuel : Nat) :
    ∀ {s : State}, Reading s → s.DNODE.toNat < 256 + fuel → ∃ t, descend fuel s = .next t ∧ Inv t := by
  induction fuel with
  | zero => exact fun h hlt => absurd h.inner (by omega)
  | succ fuel ih =>
    intro s h hlt
    cases hr : Machine.readBit s with
    | none => exact ⟨_, descend_of_hold hr fuel, h.inv_hold hr⟩
    | some p =>
      obtain ⟨r, u⟩ := p
      obtain ⟨hu, hn⟩ := h.readBit hr
      obtain ⟨_, _, _, older⟩ := hu.rest.tree hu.phase
      have hmax : u.DNODE.toNat ≤ 510 := hu.rest.dnode
      obtain ⟨d, hc, hd⟩ := child?_older older hu.inner hmax r
      rw [descend_of_child hr hc]
      split
      next => exact ⟨_, rfl, hu.inv_emitSymbol (by omega) _⟩
      next hl =>
        have inner : 256 ≤ d.toNat := by rwa [isLeaf_iff, Nat.not_lt] at hl
        rw [hn] at hd
        exact ih (hu.toChild inner (by omega)) (by simp only; omega)

/-- R142: DSYM, first tried or retried. -/
theorem run_dsym_keeps_inv {s : State} (h : Inv (atRest s)) (hp : s.PHASE = .built ∨ s.PHASE = .assigned)
    (ho : s.RD_OPEN = true) (hw : s.CUR_CMD = 0x8000#16) (hd : s.DSTATE = .descending → 256 ≤ s.DNODE.toNat) :
    ∃ t, run .dsym s = .next t ∧ Inv t := by
  obtain ⟨hroot, heof, e⟩ | ⟨_, e⟩ := run_dsym_eq s
  · refine ⟨_, e, inv_of_opened h hp ?_ (fun _ => heof) h.dnode nofun fun hd' => absurd (hroot.symm.trans hd') nofun⟩
    rw [← ho]
    rfl
  · rw [e]
    obtain ⟨hr, _⟩ := h.tree hp
    have hr : s.ROOT = 510#9 := hr
    have hmax : s.DNODE.toNat ≤ 510 := h.dnode
    have start : Reading (descendStart s) := by
      unfold descendStart
      split
      next =>
        refine ⟨inv_of_opened h hp ?_ h.ended ?_ nofun nofun, hp, ho, hw, ?_⟩
        · rw [← ho]
          rfl
        · simp [atRest, hr]
        · simp [hr]
      next hne =>
        cases hs : s.DSTATE with
        | atRoot => exact absurd hs hne
        | descending => exact ⟨h, hp, ho, hw, hd hs⟩
    have hlt : (descendStart s).DNODE.toNat ≤ 510 := start.rest.dnode
    exact descend_keeps_inv _ start (by simp only [descendFuel]; omega)

/-! ## The other commands -/

/-- R82: TRAIN. -/
theorem run_train_keeps_inv {s : State} (h : Inv s) (hb : s.BUSY = false) (b : Byte) :
    ∃ t, run (.train b) s = .next t ∧ Inv t := by
  simp only [run]
  split
  · exact ⟨_, rfl, h.raiseFault (h.dstate hb) (by decide) _⟩
  · exact ⟨_, rfl, h.withUnread _ s.HEAP ⟨s.CODE, s.LEN⟩ s.DSYM s.OUT s.HOSTQ s.HREADS s.DRAWS⟩

/-- BUILD: the tree state may change, with legal sizes, and the phase goes to FAULT or, with the tree, to BUILT. -/
theorem inv_of_sameButTree {s t : State} (h : Inv s) (hb : s.BUSY = false) (hp : s.PHASE = .train) (f : sameButTree s t)
    (busy : t.BUSY = false) (hsize : t.HSIZE.toNat ≤ 256) (mcount : t.MCOUNT.toNat ≤ 255) (root : t.ROOT.toNat ≤ 510)
    (ends : (t.PHASE = .fault ∧ t.ERR ≠ .none) ∨ (t.PHASE = .built ∧ t.ERR = s.ERR ∧ t.ERRINFO = s.ERRINFO ∧
      t.ROOT = 510#9 ∧ t.MCOUNT = 255#9 ∧ t.HSIZE = 1#9 ∧ olderChildren t)) : Inv t := by
  obtain ⟨_, ⟨hbuf, hidx⟩, ⟨_, _, heof, hopen, hend, hdst, hdn, _, hval⟩, _⟩ := f
  have noErr : s.ERR = .none := h.noErr (by simp [hp])
  constructor
  case hsize => exact hsize
  case mcount => exact mcount
  case root => exact root
  case dnode => exact hdn ▸ h.dnode
  case faulted => rcases ends with ⟨p, c⟩ | ⟨p, c, _⟩ <;> simp [p, c, noErr]
  case info =>
    rcases ends with ⟨_, c⟩ | ⟨_, _, i, _⟩
    · exact fun e => absurd e c
    · exact fun _ => i.trans (h.info noErr)
  case training => rcases ends with ⟨p, _⟩ | ⟨p, _⟩ <;> simp [p]
  case tree =>
    rcases ends with ⟨p, _⟩ | ⟨_, _, _, hr, hm, hh, ho⟩
    · simp [p]
    · exact fun _ => ⟨hr, hm, hh, ho⟩
  case writer => rw [writerClean, hbuf, hidx]; exact h.writer
  case idleWriter => rw [hbuf, hidx]; exact fun _ => h.idleWriter (.inl hp)
  case closed => rw [hopen, heof, hend, hval]; exact h.closed
  case ended => rw [hend, heof]; exact h.ended
  case held => simp [busy]
  case descending => simp [hdst, h.dstate hb]

/-- R101: BUILD leaves a tree whose root is node 510, or the fault of a merge. -/
theorem run_build_keeps_inv {s : State} (h : Inv s) (hb : s.BUSY = false) (hp : s.PHASE = .train) :
    ∃ t, run .build s = .next t ∧ Inv t := by
  refine ⟨_, rfl, ?_⟩
  obtain ⟨_, hm, hr, _⟩ := h.training hp
  obtain ⟨sf, ⟨_, sErr, sInfo⟩, _, sRoot, sBusy⟩ := startBuild_frame s
  obtain ⟨mf, mRoot, fits, faults⟩ := mergeFrom_frame 255 0 (startBuild s)
  obtain ⟨done, stopped⟩ := mergeFrom_merging 255 (merging_startBuild hm) (by omega)
  have f := sameButTree_trans sf mf
  obtain ⟨u, hu, e⟩ | ⟨u, hu, e⟩ := buildTree_cases s <;> rw [e] <;>
    simp only [hu, forall_true_left, Bool.true_eq_false, Bool.false_eq_true, false_imp_iff]
      at f mRoot fits faults done stopped
  · obtain ⟨hphase, herr, hbusy⟩ := faults
    refine inv_of_sameButTree h hb hp f hbusy stopped.1 stopped.2 ?_ (.inl ⟨hphase, by simp [herr]⟩)
    simp [mRoot, sRoot, hr]
  · obtain ⟨⟨_, hErr, hInfo⟩, hBusy⟩ := fits
    have size : u.HSIZE = 1#9 := BitVec.eq_of_toNat_eq done.size
    have count : u.MCOUNT = 255#9 := BitVec.eq_of_toNat_eq done.count
    have top := done.top rfl
    exact inv_of_sameButTree h hb hp f (hBusy.trans (sBusy.trans hb)) (by simp [size]) (by simp [count])
      (by simp [top]) (.inr ⟨rfl, hErr.trans sErr, hInfo.trans sInfo, top, count, size, done.older⟩)

/-- R110: ASSIGN completes on a built tree, or faults on a deep leaf. -/
theorem run_assign_keeps_inv {s : State} (h : Inv s) (hb : s.BUSY = false) (hp : s.PHASE = .built) :
    ∃ t, run .assign s = .next t ∧ Inv t := by
  obtain ⟨hr, hm, hs, older⟩ := h.tree (.inl hp)
  obtain ⟨t, e⟩ := run_assign_answers older hr
  refine ⟨t, e, ?_⟩
  have table (c : CodeTable) : Inv (({ s with DRAWS := s.DRAWS + 1 } : State).withCodeTable c) :=
    h.withUnread s.NFREQ s.HEAP c s.DSYM s.OUT s.HOSTQ s.HREADS (s.DRAWS + 1)
  obtain ⟨c, rfl⟩ | ⟨c, leaf, rfl⟩ := run_assign_cases e
  · have noErr : s.ERR = .none := h.noErr (by simp [hp])
    exact { table c with
      faulted := by simp [noErr]
      training := nofun
      tree := fun _ => ⟨hr, hm, hs, older⟩
      idleWriter := by simp
      held := fun hb' => absurd (hb.symm.trans hb') nofun }
  · exact (table c).raiseFault (h.dstate hb) (by decide) leaf

/-- R120: the writer may hold any bits in phase ASSIGNED. -/
theorem Inv.withWriter {s : State} (h : Inv s) (hp : s.PHASE = .assigned) (out : List Byte) (buf : Byte) (idx : BitVec 3)
    (clean : ∀ j, idx.toNat ≤ j → buf.getLsbD j = false) : Inv { s with OUT := out, WBUF := buf, WIDX := idx } :=
  { h with writer := clean, idleWriter := by simp [hp] }

/-- R122: the bits ENC writes keep the invariant. -/
theorem inv_writeBits (bits : List Bool) : ∀ {s : State}, Inv s → s.PHASE = .assigned → Inv (writeBits bits s) := by
  induction bits with
  | nil => exact fun h _ => h
  | cons x bits ih =>
    intro s h hp
    have clean := writerClean_writeBit h.writer x
    have step : Inv (writeBit x s) ∧ (writeBit x s).PHASE = .assigned := by
      unfold writeBit at clean ⊢
      split
      · exact ⟨h.withWriter hp _ _ _ (by simp), hp⟩
      · next h7 =>
        simp only [h7, if_false] at clean
        exact ⟨h.withWriter hp s.OUT _ _ clean, hp⟩
    exact ih step.1 step.2

/-! ## Every command -/

/-- R192, R65: a command the port takes answers a next state and keeps the invariant. -/
theorem exec_keeps_inv {s : State} (h : Inv s) (hb : s.BUSY = false) {i : Instr} (hw : s.CUR_CMD = encode i) :
    ∃ t, exec i s = .next t ∧ Inv t := by
  by_cases hi : i = .clear
  · subst hi
    exact ⟨_, rfl, inv_toReset s⟩
  rw [exec_eq_guarded hi]
  by_cases hp : s.PHASE = .fault
  · exact ⟨_, guarded_of_fault hp, h⟩
  cases hok : phaseOk i s.PHASE s.RD_OPEN
  · exact ⟨_, guarded_of_bad hp hok, h.raiseFault (h.dstate hb) (by decide) _⟩
  rw [guarded_of_ok hp hok]
  cases i with
  | nop => exact ⟨_, rfl, h⟩
  | clear => exact absurd rfl hi
  | train b => exact run_train_keeps_inv h hb b
  | build => exact run_build_keeps_inv h hb (by simpa [phaseOk] using hok)
  | assign => exact run_assign_keeps_inv h hb (by simpa [phaseOk] using hok)
  | enc b => exact ⟨_, rfl, inv_writeBits _ h (by simpa [phaseOk] using hok)⟩
  | flush => exact ⟨_, rfl, h.withWriter (by simpa [phaseOk] using hok) _ _ _ (by simp)⟩
  | dopen => exact run_dopen_keeps_inv h.atRest (by simpa [phaseOk] using hok) hw (h.dstate hb)
  | dsym =>
    obtain ⟨hp, ho⟩ : (s.PHASE = .built ∨ s.PHASE = .assigned) ∧ s.RD_OPEN = true := by simpa [phaseOk] using hok
    exact run_dsym_keeps_inv h.atRest hp ho hw fun hd => absurd ((h.dstate hb).symm.trans hd) nofun

/-- R165, R65: a word that is executed, legal or not, answers a next state and keeps the invariant. -/
theorem executeWord_keeps_inv {s : State} (h : Inv s) (hb : s.BUSY = false)
    (taken : s.PHASE ≠ .fault ∨ s.CUR_CMD = CLEAR_WORD) : ∃ t, executeWord s.CUR_CMD s = .next t ∧ Inv t := by
  cases hd : decode s.CUR_CMD with
  | none =>
    have notClear : s.CUR_CMD ≠ CLEAR_WORD := by
      intro hc
      rw [hc] at hd
      exact absurd hd (by decide)
    exact ⟨_, executeWord_of_illegal hd (taken.resolve_right notClear), h.raiseFault (h.dstate hb) (by decide) _⟩
  | some i =>
    rw [executeWord_of_decode hd taken]
    exact exec_keeps_inv h hb (encode_of_decode hd).symm

/-- R12: the port takes a word. -/
theorem acceptWord_keeps_inv {s : State} (h : Inv s) (hb : s.BUSY = false) (w : CmdWord) :
    ∃ t, acceptWord w s = .next t ∧ Inv t := by
  by_cases hf : s.PHASE = .fault ∧ w ≠ CLEAR_WORD
  · exact ⟨_, acceptWord_of_fault hf.1 hf.2, h⟩
  · have taken : s.PHASE ≠ .fault ∨ w = CLEAR_WORD := by tauto
    obtain ⟨t, e, ht⟩ := executeWord_keeps_inv (h.withIdle hb w s.IN s.DRAWS) hb taken
    refine ⟨_, ?_, ht.retire⟩
    rw [acceptWord_of_taken taken, e]
    rfl

/-- R47: the retry of a held command, whatever `IN` holds by then, answers a next state and keeps the invariant. -/
theorem resume_keeps_inv {s : State} (rest : Inv (atRest s)) (hp : s.PHASE = .built ∨ s.PHASE = .assigned)
    (held : (s.CUR_CMD = 0x7000#16 ∧ s.DSTATE = .atRoot) ∨
      (s.CUR_CMD = 0x8000#16 ∧ s.RD_OPEN = true ∧ (s.DSTATE = .descending → 256 ≤ s.DNODE.toNat))) :
    ∃ t, resume s = .next t ∧ Inv t := by
  have notFault : s.PHASE ≠ .fault := by rcases hp with hp | hp <;> simp [hp]
  obtain ⟨i, hd, t, e, ht⟩ : ∃ i, decode s.CUR_CMD = some i ∧ ∃ t, exec i s = .next t ∧ Inv t := by
    rcases held with ⟨hc, hroot⟩ | ⟨hc, ho, hdesc⟩
    · refine ⟨.dopen, by rw [hc]; rfl, ?_⟩
      rw [exec_of_ok (i := .dopen) nofun notFault (by simpa [phaseOk] using hp)]
      exact run_dopen_keeps_inv rest hp hc hroot
    · refine ⟨.dsym, by rw [hc]; rfl, ?_⟩
      rw [exec_of_ok (i := .dsym) nofun notFault (by simpa [phaseOk, ho] using hp)]
      exact run_dsym_keeps_inv rest hp ho hc hdesc
  refine ⟨_, ?_, ht.retire⟩
  rw [resume, executeWord_of_decode hd (.inl notFault), e]
  rfl

/-- R47: what a held command waits as. -/
theorem Inv.heldCommand {s : State} (h : Inv s) (hb : s.BUSY = true) :
    (s.CUR_CMD = 0x7000#16 ∧ s.DSTATE = .atRoot) ∨
      (s.CUR_CMD = 0x8000#16 ∧ s.RD_OPEN = true ∧ (s.DSTATE = .descending → 256 ≤ s.DNODE.toNat)) := by
  obtain ⟨_, _, hc | ⟨hc, ho, _⟩⟩ := h.held hb
  · refine .inl ⟨hc, ?_⟩
    cases hs : s.DSTATE with
    | atRoot => rfl
    | descending =>
      obtain ⟨_, hc', _⟩ := h.descending hs
      exact absurd (hc.symm.trans hc') (by decide)
  · refine .inr ⟨hc, ho, fun hs => ?_⟩
    obtain ⟨_, _, inner⟩ := h.descending hs
    exact inner

/-! ## The step -/

/-- The host's action: a word only where the port is free. -/
theorem hostAct_keeps_inv {s : State} (h : Inv s) {a : HostAction} (ha : s.BUSY = true → ∀ w, a ≠ .write w) :
    ∃ t, hostAct a s = .next t ∧ Inv t := by
  cases a with
  | write w => exact acceptWord_keeps_inv h (by simpa using fun hb => ha hb w rfl) w
  | push tok =>
    cases hb : s.BUSY
    · exact ⟨_, by simp [hostAct, pushToken, hb], h.withIdle hb s.CUR_CMD (s.IN ++ [tok]) s.DRAWS⟩
    · have rest : Inv (atRest { s with IN := s.IN ++ [tok] }) := h.atRest.withIdle rfl s.CUR_CMD _ s.DRAWS
      obtain ⟨_, hp, _⟩ := h.held hb
      obtain ⟨t, e, ht⟩ := resume_keeps_inv rest hp (h.heldCommand hb)
      exact ⟨t, by simpa [hostAct, pushToken, hb] using e, ht⟩
  | drain n => exact ⟨_, rfl, h.withUnread s.NFREQ s.HEAP ⟨s.CODE, s.LEN⟩ s.DSYM _ s.HOSTQ s.HREADS s.DRAWS⟩
  | read a => exact ⟨_, rfl, h.withUnread s.NFREQ s.HEAP ⟨s.CODE, s.LEN⟩ s.DSYM s.OUT s.HOSTQ _ s.DRAWS⟩
  | reset => exact ⟨_, rfl, inv_toReset s⟩

/-- Settles O52: whatever the host does next, from `Inv` each command and each retry answers, and keeps `Inv`. -/
theorem stepAnswersAndKeepsInv : Obligations.StepAnswersAndKeepsInv := by
  intro s h
  cases hn : nextAction s with
  | none => exact ⟨s, by simp [step, hostStep, hn], h⟩
  | some p =>
    obtain ⟨a, rest⟩ := p
    have hs : Inv { s with HOSTQ := rest } :=
      h.withUnread s.NFREQ s.HEAP ⟨s.CODE, s.LEN⟩ s.DSYM s.OUT rest s.HREADS s.DRAWS
    have waits : s.BUSY = true → ∀ w, a ≠ .write w := by
      rintro hb w rfl
      exact takeWhileHolding_not_write (by simpa [nextAction, hb] using hn)
    simpa [step, hostStep, hn] using hostAct_keeps_inv hs waits

end Sys2Proof.Machine

/-! SUPPORT. What every command leaves unchanged, and which registers it writes (10_state.md R11, R14, R16, R17, R18). -/

namespace Sys2Proof.Machine

/-! ## The phase and the fault registers -/

/-- R101: BUILD ends in phase BUILT, or in the fault of a merge. -/
theorem buildTree_phase (s : State) :
    ((buildTree s).PHASE = .built ∧ (buildTree s).BUSY = s.BUSY ∧ (buildTree s).ERR = s.ERR ∧
      (buildTree s).ERRINFO = s.ERRINFO) ∨
    ((buildTree s).PHASE = .fault ∧ (buildTree s).BUSY = false ∧ (buildTree s).ERR = .weightOverflow) := by
  obtain ⟨_, ⟨_, sErr, sInfo⟩, _, _, sBusy⟩ := startBuild_frame s
  obtain ⟨_, _, fits, faults⟩ := mergeFrom_frame 255 0 (startBuild s)
  obtain ⟨u, hu, e⟩ | ⟨u, hu, e⟩ := buildTree_cases s <;> rw [e] <;> rw [hu] at fits faults
  · obtain ⟨hp, he, hb⟩ := faults rfl
    exact .inr ⟨hp, hb, he⟩
  · obtain ⟨⟨_, hErr, hInfo⟩, hBusy⟩ := fits rfl
    exact .inl ⟨rfl, hBusy.trans sBusy, hErr.trans sErr, hInfo.trans sInfo⟩

/-- DOPEN and DSYM leave the phase, the fault registers and the host's fields alone. -/
theorem run_reader_frame {i : Instr} {s t : State} (hi : i = .dopen ∨ i = .dsym) (h : run i s = .next t) :
    samePhase s t ∧ sameHost s t := by
  rcases hi with rfl | rfl
  · obtain ⟨_, e⟩ | ⟨b, u, _, hu, e⟩ := run_dopen_eq s <;> rw [e] at h <;> cases h
    · exact ⟨samePhase_refl s, sameHost_refl s⟩
    · obtain ⟨_, _, _, hp, hh, _⟩ := inRead_frame hu
      exact ⟨hp, hh⟩
  · obtain ⟨_, _, e⟩ | ⟨_, e⟩ := run_dsym_eq s <;> rw [e] at h
    · cases h
      exact ⟨samePhase_refl s, sameHost_refl s⟩
    · obtain ⟨_, _, _, hp, hh, _⟩ := descend_frame h
      have start : samePhase s (descendStart s) ∧ sameHost s (descendStart s) := by
        unfold descendStart
        split <;> exact ⟨⟨rfl, rfl, rfl⟩, ⟨rfl, rfl, rfl⟩⟩
      exact ⟨samePhase_trans start.1 hp, sameHost_trans start.2 hh⟩

/-- Settles O19: by the ways a command answers, and for the commands that pass their checks by their parts. -/
theorem phaseAndErrWriters : Obligations.PhaseAndErrWriters := by
  intro s t i h
  obtain ⟨rfl, rfl⟩ | ⟨_, _, rfl⟩ | ⟨_, hp, _, rfl⟩ | ⟨hi, hp, hok, h⟩ := exec_cases h
  · exact .inl ⟨rfl, rfl, rfl⟩
  · exact .inr (.inl ⟨rfl, rfl, rfl⟩)
  · exact .inr (.inr (.inr (.inr ⟨hp, rfl, rfl, .inr (.inr (.inr rfl))⟩)))
  cases i with
  | clear => exact absurd rfl hi
  | nop =>
    cases h
    exact .inr (.inl ⟨rfl, rfl, rfl⟩)
  | train b =>
    obtain rfl | rfl := run_train_cases h
    · exact .inr (.inr (.inr (.inr ⟨hp, rfl, rfl, .inr (.inr (.inl ⟨⟨b, rfl⟩, rfl⟩))⟩)))
    · exact .inr (.inl ⟨rfl, rfl, rfl⟩)
  | build =>
    cases h
    obtain ⟨hb, _, he, hinfo⟩ | ⟨hf, hb, he⟩ := buildTree_phase s
    · exact .inr (.inr (.inl ⟨rfl, by simpa [phaseOk] using hok, hb, he, hinfo⟩))
    · exact .inr (.inr (.inr (.inr ⟨hp, hf, hb, .inr (.inl ⟨rfl, he⟩)⟩)))
  | assign =>
    obtain ⟨c, rfl⟩ | ⟨c, leaf, rfl⟩ := run_assign_cases h
    · exact .inr (.inr (.inr (.inl ⟨rfl, by simpa [phaseOk] using hok, rfl, rfl, rfl⟩)))
    · exact .inr (.inr (.inr (.inr ⟨hp, rfl, rfl, .inl ⟨rfl, rfl⟩⟩)))
  | enc b =>
    cases h
    obtain ⟨_, _, _, same, _⟩ := writeBits_frame (codeBits s b) s
    exact .inr (.inl same)
  | flush =>
    cases h
    exact .inr (.inl ⟨rfl, rfl, rfl⟩)
  | dopen => exact .inr (.inl (run_reader_frame (.inl rfl) h).1)
  | dsym => exact .inr (.inl (run_reader_frame (.inr rfl) h).1)

/-! ## TRAIN, BUILD and ASSIGN -/

/-- A merge makes no free draw. -/
theorem merge_draws (k : Nat) (s : State) : (merge k s).1.DRAWS = s.DRAWS := by
  by_cases h : Config.FREQ_MAX < (s.nfreq (extractedPair s).1).toNat + (s.nfreq (extractedPair s).2).toNat
  · simp [merge_of_overflow h]
  · simp [merge_of_fits (Nat.le_of_not_lt h), linkNode]

/-- Nor do the merges. -/
theorem mergeFrom_draws (n : Nat) : ∀ (k : Nat) (s : State), (mergeFrom n k s).1.DRAWS = s.DRAWS := by
  induction n with
  | zero => exact fun _ _ => rfl
  | succ n ih =>
    intro k s
    simp only [mergeFrom]
    split
    · exact merge_draws k s
    · exact (ih _ _).trans (merge_draws k s)

/-- R101: BUILD changes the tree, the phase and the fault registers only. -/
theorem buildTree_frame (s : State) : sameButTree s (buildTree s) ∧ (buildTree s).DRAWS = s.DRAWS := by
  obtain ⟨sf, _, sd, _⟩ := startBuild_frame s
  obtain ⟨mf, _⟩ := mergeFrom_frame 255 0 (startBuild s)
  have md := mergeFrom_draws 255 0 (startBuild s)
  have f := sameButTree_trans sf mf
  obtain ⟨u, hu, e⟩ | ⟨u, hu, e⟩ := buildTree_cases s <;> rw [e] <;> rw [hu] at f md <;> exact ⟨f, md.trans sd⟩

/-- Settles O50: by the ways a command answers, and the three commands' own parts. -/
theorem treeCommandFrame : Obligations.TreeCommandFrame := by
  intro s t i hi h
  obtain ⟨rfl, _⟩ | ⟨_, _, rfl⟩ | ⟨_, _, _, rfl⟩ | ⟨_, _, _, h⟩ := exec_cases h
  · simp at hi
  · simp [sameWriter, sameReader, sameStreams, sameHost, sameCodes, sameTree]
  · simp [sameWriter, sameReader, sameStreams, sameHost, sameCodes, sameTree]
  obtain ⟨b, rfl⟩ | rfl | rfl := hi
  · have other (x : Freq) (j : Nat) (hj : j ≠ b.toNat) : readAt (writeAt s.NFREQ b.toNat x) j = readAt s.NFREQ j :=
      readAt_writeAt_other _ _ hj.symm
    obtain rfl | rfl := run_train_cases h
    · simp [sameWriter, sameReader, sameStreams, sameHost, sameCodes]
    · simpa [sameWriter, sameReader, sameStreams, sameHost, sameCodes] using other _
  · cases h
    obtain ⟨⟨codes, writer, reader, streams, host⟩, draws⟩ := buildTree_frame s
    exact ⟨writer, reader, streams, host, fun _ => ⟨codes, draws⟩, nofun, nofun⟩
  · obtain ⟨c, rfl⟩ | ⟨c, leaf, rfl⟩ := run_assign_cases h <;>
      simp [sameWriter, sameReader, sameStreams, sameHost, sameTree]

/-! ## The reader's commands -/

/-- R137: a descent that ends in a hold has taken every token and changed the reader, the decoder and `BUSY` only. -/
theorem descend_held {fuel : Nat} : ∀ {s t : State}, descend fuel s = .next t → t.BUSY = true →
    t.IN = [] ∧ t.EOF = false ∧ s.EOF = false ∧ t.RIDX = 7#3 ∧
      t = { s with RBUF := t.RBUF, RIDX := 7#3, IN := [], DSTATE := t.DSTATE, DNODE := t.DNODE, BUSY := true } := by
  induction fuel with
  | zero => exact fun h => nomatch h
  | succ fuel ih =>
    intro s t h hb
    obtain ⟨hr, rfl⟩ | ⟨r, u, d, hr, _, ⟨_, rfl⟩ | ⟨_, h⟩⟩ := descend_cases h
    · obtain ⟨h7, he, hi⟩ := (readBit_eq_none s).1 hr
      exact ⟨hi, he, he, h7, by rw [← h7, ← hi]; rfl⟩
    · cases hb
    · obtain ⟨hi, he, hue, h7, e⟩ := ih h hb
      obtain ⟨f, keeps⟩ := readBit_eq hr
      have hue : u.EOF = false := hue
      have hse : s.EOF = false := by
        by_contra hne
        simp [keeps (by simpa using hne)] at hue
      refine ⟨hi, he, hse, h7, e.trans ?_⟩
      rw [f, hue, ← hse]

/-- A command that is not of the reader leaves the host's actions alone, and `BUSY` too unless it clears it. -/
theorem run_other_frame {i : Instr} {s t : State} (hi : i ≠ .dopen ∧ i ≠ .dsym) (h : run i s = .next t) :
    t.HOSTQ = s.HOSTQ ∧ (t.BUSY = s.BUSY ∨ t.BUSY = false) := by
  cases i with
  | nop | clear | flush => cases h; simp
  | train b => obtain rfl | rfl := run_train_cases h <;> simp
  | build =>
    cases h
    obtain ⟨⟨_, _, _, _, _, hq, _⟩, _⟩ := buildTree_frame s
    refine ⟨hq, ?_⟩
    obtain ⟨_, hb, _⟩ | ⟨_, hb, _⟩ := buildTree_phase s
    · exact .inl hb
    · exact .inr hb
  | assign => obtain ⟨c, rfl⟩ | ⟨c, leaf, rfl⟩ := run_assign_cases h <;> simp
  | enc b =>
    cases h
    obtain ⟨_, _, _, _, ⟨_, hq, _⟩, _, hb⟩ := writeBits_frame (codeBits s b) s
    exact ⟨hq, .inl hb⟩
  | dopen => exact absurd rfl hi.1
  | dsym => exact absurd rfl hi.2

/-- Settles O46: a command that is not of the reader leaves `BUSY` alone or clears it. -/
theorem onlyReaderCommandsHold : Obligations.OnlyReaderCommandsHold := by
  intro s t i hs h ht
  obtain ⟨_, rfl⟩ | ⟨_, _, rfl⟩ | ⟨_, _, _, rfl⟩ | ⟨_, _, _, h⟩ := exec_cases h
  · exact absurd ht nofun
  · exact absurd (hs.symm.trans ht) nofun
  · exact absurd ht nofun
  by_cases hr : i ≠ .dopen ∧ i ≠ .dsym
  · obtain ⟨_, hb | hb⟩ := run_other_frame hr h
    · exact absurd (ht.symm.trans (hb.trans hs)) nofun
    · exact absurd (ht.symm.trans hb) nofun
  obtain rfl | rfl : i = .dopen ∨ i = .dsym := by tauto
  · obtain ⟨hi, e⟩ | ⟨b, u, _, hu, e⟩ := run_dopen_eq s <;> rw [e] at h <;> cases h
    · exact .inl ⟨rfl, hi, rfl⟩
    · exact absurd ht nofun
  · obtain ⟨_, _, e⟩ | ⟨_, e⟩ := run_dsym_eq s <;> rw [e] at h
    · cases h
      exact absurd ht nofun
    · obtain ⟨hi, he, hse, h7, e⟩ := descend_held h ht
      refine .inr ⟨rfl, hi, he, h7, e.trans ?_⟩
      unfold descendStart
      split <;> rfl

/-! ## The host's actions -/

/-- No command changes the host's actions. -/
theorem exec_hostq {i : Instr} {s t : State} (h : exec i s = .next t) : t.HOSTQ = s.HOSTQ := by
  obtain ⟨_, rfl⟩ | ⟨_, _, rfl⟩ | ⟨_, _, _, rfl⟩ | ⟨hi, _, _, h⟩ := exec_cases h
  · rfl
  · rfl
  · rfl
  by_cases hr : i ≠ .dopen ∧ i ≠ .dsym
  · exact (run_other_frame hr h).1
  · obtain ⟨_, _, hq, _⟩ := run_reader_frame (by tauto) h
    exact hq

theorem executeWord_hostq {w : CmdWord} {s t : State} (h : executeWord w s = .next t) : t.HOSTQ = s.HOSTQ := by
  unfold executeWord at h
  split at h
  · cases h; rfl
  · split at h
    · cases h; rfl
    · exact exec_hostq h

/-- A retired command answered a next state. -/
theorem retireOutcome_eq_next {o : Outcome} {t : State} (h : retireOutcome o = .next t) :
    ∃ u, o = .next u ∧ t = retire u := by
  cases o <;> cases h
  exact ⟨_, rfl, rfl⟩

/-- What the core does on an action of the host leaves the later actions alone. -/
theorem hostAct_hostq {a : HostAction} {s t : State} (h : hostAct a s = .next t) : t.HOSTQ = s.HOSTQ := by
  cases a with
  | write w =>
    simp only [hostAct, acceptWord] at h
    split at h
    · cases h; rfl
    · obtain ⟨u, hu, rfl⟩ := retireOutcome_eq_next h
      simpa using executeWord_hostq hu
  | push tok =>
    simp only [hostAct, pushToken] at h
    split at h
    · obtain ⟨u, hu, rfl⟩ := retireOutcome_eq_next h
      simpa using executeWord_hostq hu
    · cases h; rfl
  | drain n | read a | reset => cases h; rfl

/-- The command words are some of the host's actions. -/
theorem length_wordsOf_le (q : List HostAction) : (wordsOf q).length ≤ q.length := by
  induction q with
  | nil => exact Nat.le_refl _
  | cons a q ih => cases a <;> simp only [wordsOf, List.length_cons] <;> omega

/-- R12, R47: the action taken during a hold is none of the words, and the words wait in their order. -/
theorem wordsOf_takeWhileHolding {q : List HostAction} : ∀ {a : HostAction} {rest : List HostAction},
    takeWhileHolding q = some (a, rest) → wordsOf rest = wordsOf q ∧ (wordsOf q).length < q.length := by
  induction q with
  | nil => exact fun h => nomatch h
  | cons b q ih =>
    intro a rest h
    cases b with
    | write w =>
      simp only [takeWhileHolding, Option.map_eq_some_iff] at h
      obtain ⟨⟨a', rest'⟩, h, e⟩ := h
      cases e
      obtain ⟨hw, hl⟩ := ih h
      simpa [wordsOf, hw] using hl
    | push _ | drain _ | read _ | reset =>
      cases h
      exact ⟨rfl, Nat.lt_succ_of_le (length_wordsOf_le q)⟩

/-- Settles O6: a step during a hold takes an action that is no word, or none. -/
theorem heldPortTakesNoWord : Obligations.HeldPortTakesNoWord := by
  intro s t hb h
  obtain ⟨_, rfl⟩ | ⟨a, rest, hn, ha⟩ := step_cases h
  · exact ⟨rfl, fun _ => rfl⟩
  · obtain ⟨hw, hl⟩ := wordsOf_takeWhileHolding (by simpa [nextAction, hb] using hn)
    have hq : t.HOSTQ = rest := hostAct_hostq ha
    exact ⟨by rw [hq, hw], fun he => absurd he (by omega)⟩

/-- A read behind words that wait is the next action. -/
theorem takeWhileHolding_words (ws : List CmdWord) (a : RegAddr) (q : List HostAction) :
    takeWhileHolding (ws.map .write ++ .read a :: q) = some (.read a, ws.map .write ++ q) := by
  induction ws with
  | nil => rfl
  | cons w ws ih => simp [takeWhileHolding, ih]

/-- Settles O7: the next action is the read, and a read records the word only. -/
theorem hostReadHasNoSideEffect : Obligations.HostReadHasNoSideEffect := by
  intro s ws a q hidle hq
  have next : nextAction s = some (.read a, ws.map .write ++ q) := by
    cases hb : s.BUSY
    · obtain rfl : ws = [] := hidle.resolve_right (by simp [hb])
      exact nextAction_idle hb hq
    · simp only [nextAction, hb, if_true, hq, takeWhileHolding_words]
  simp only [step, hostStep, next]
  rfl

/-- `retired`, in which claims are made, is the port's own `retireOutcome`. -/
theorem retireOutcome_eq_retired (o : Outcome) : retireOutcome o = retired o := by
  cases o <;> rfl

/-- Settles O4: the next action is the write, and only CLEAR has the word of CLEAR. -/
theorem stepExecutesWrittenWord : Obligations.StepExecutesWrittenWord := by
  intro s w q i hb hq hd hp
  have taken : s.PHASE ≠ .fault ∨ w = CLEAR_WORD := by
    refine hp.imp_right ?_
    rintro rfl
    exact (encode_of_decode hd).symm
  simp only [step, hostStep, nextAction_idle hb hq, hostAct]
  rw [acceptWord_of_taken (s := { s with HOSTQ := q }) taken,
    executeWord_of_decode (s := { s with HOSTQ := q, CUR_CMD := w }) hd taken, retireOutcome_eq_retired]

end Sys2Proof.Machine

/-! SUPPORT. The reset values (10_state.md R35) and the words of the register map (R32, R33). -/

namespace Sys2Proof.Machine

/-! ## Reset -/

/-- R35, R81: the reset values, whatever the draw. -/
theorem hasResetValues_toReset (s : State) : hasResetValues (toReset s) := by
  have counts (b : Byte) : (toReset s).nfreq (leafOf b) = 0#32 := by
    have hb : b.toNat < 256 := b.isLt
    simp [State.nfreq, resetNfreq, Config.ALPHABET, hb, show b.toNat < 511 by omega]
  simpa [hasResetValues] using counts

/-- R35: reset is the first of all resets; draw 0 is its own. -/
theorem reset_eq_toReset : State.reset = toReset { State.reset with DRAWS := 0 } := rfl

/-- Settles O9: both are the reset values with a draw. -/
theorem resetStateValues : Obligations.ResetStateValues := by
  refine ⟨?_, fun s => ⟨_, rfl, hasResetValues_toReset s⟩⟩
  rw [reset_eq_toReset]
  exact hasResetValues_toReset _

/-- Settles O51: the reset values meet `Inv`, and in phase TRAIN `CodecInv` asks for nothing. -/
theorem invHoldsAtReset : Obligations.InvHoldsAtReset := by
  refine ⟨?_, ⟨?_, nofun⟩⟩
  · rw [reset_eq_toReset]
    exact inv_toReset _
  · rintro (h | h) <;> cases h

/-! ## STATUS -/

/-- R33: each bit of STATUS. -/
theorem getLsbD_statusWord (s : State) (j : Nat) :
    (statusWord s).getLsbD j =
      if j < 2 then s.PHASE.bits.getLsbD j
      else if j = 2 then s.RD_OPEN
      else if j = 3 then s.EOF
      else if j = 4 then s.END
      else if j = 5 then s.BUSY
      else if j = 6 then s.DSTATE.bit.getLsbD 0
      else false := by
  simp only [statusWord, flagBit, BitVec.getLsbD_append, BitVec.getLsbD_ofBool]
  by_cases hj : j < 7
  · interval_cases j <;> simp
  · simp (disch := omega) only [if_neg, BitVec.getLsbD_zero]

/-- R33: the phase is the two lowest bits. -/
theorem extractLsb'_statusWord (s : State) : (statusWord s).extractLsb' 0 2 = s.PHASE.bits := by
  apply BitVec.eq_of_getLsbD_eq
  intro j hj
  simp [getLsbD_statusWord, hj]

/-- Settles O10: bit by bit. -/
theorem statusFields : Obligations.StatusFields := by
  intro s
  have status : readReg s 0x000#12 = statusWord s := rfl
  rw [status, extractLsb'_statusWord]
  refine ⟨rfl, congrArg Phase.bits, congrArg Phase.bits, congrArg Phase.bits, congrArg Phase.bits,
    getLsbD_statusWord s 2, getLsbD_statusWord s 3, getLsbD_statusWord s 4, getLsbD_statusWord s 5, ?_, ?_⟩
  · rw [getLsbD_statusWord]
    cases s.DSTATE <;> simp [DecoderState.bit]
  · intro j hj
    rw [getLsbD_statusWord]
    simp (disch := omega) only [if_neg]

/-! ## The other words -/

/-- An address of the register map, as a number. -/
theorem toNat_regAddr {n : Nat} (h : n < 4096) : (BitVec.ofNat 12 n).toNat = n := Nat.mod_eq_of_lt h

theorem readReg_nfreq (s : State) {i : Nat} (h : i ≤ 510) :
    readReg s (BitVec.ofNat 12 (0x200 + i)) = readAt s.NFREQ i := by
  simp (disch := omega) only [readReg, toNat_regAddr, if_neg, if_pos, Nat.add_sub_cancel_left]

theorem readReg_links (s : State) {k : Nat} (h : k ≤ 254) :
    readReg s (BitVec.ofNat 12 (0x400 + k)) = (0#7 ++ readAt s.NRIGHT k ++ 0#7 ++ readAt s.NLEFT k : BitVec 32) := by
  simp (disch := omega) only [readReg, toNat_regAddr, if_neg, if_pos, Nat.add_sub_cancel_left]

theorem readReg_heap (s : State) {j : Nat} (h : j ≤ 255) :
    readReg s (BitVec.ofNat 12 (0x500 + j)) = (readAt s.HEAP j).setWidth 32 := by
  simp (disch := omega) only [readReg, toNat_regAddr, if_neg, if_pos, Nat.add_sub_cancel_left]

theorem readReg_code (s : State) {b : Nat} (h : b ≤ 255) :
    readReg s (BitVec.ofNat 12 (0x600 + b)) = readAt s.CODE b := by
  simp (disch := omega) only [readReg, toNat_regAddr, if_neg, if_pos, Nat.add_sub_cancel_left]

theorem readReg_len (s : State) {b : Nat} (h : b ≤ 255) :
    readReg s (BitVec.ofNat 12 (0x700 + b)) = (readAt s.LEN b).setWidth 32 := by
  simp (disch := omega) only [readReg, toNat_regAddr, if_neg, if_pos, Nat.add_sub_cancel_left]

theorem readReg_unlisted (s : State) {a : RegAddr}
    (h : (0x009 < a.toNat ∧ a.toNat < 0x200) ∨ a.toNat = 0x3FF ∨ a.toNat = 0x4FF ∨ 0x7FF < a.toNat) :
    readReg s a = 0#32 := by
  simp (disch := omega) only [readReg, if_neg]

/-- Two fields of a word, as numbers. -/
theorem toNat_append_add {n m : Nat} (x : BitVec n) (y : BitVec m) :
    (x ++ y).toNat = y.toNat + 2 ^ m * x.toNat := by
  rw [BitVec.toNat_append, ← Nat.shiftLeft_add_eq_or_of_lt y.isLt, Nat.shiftLeft_eq, Nat.mul_comm, Nat.add_comm]

/-- Settles O11: each address range is one branch of the map. -/
theorem registerMapWords : Obligations.RegisterMapWords := by
  intro s
  have errWord : readReg s 0x001#12 = s.ERR.bits.setWidth 32 := rfl
  have wordOf {n : Nat} (x : BitVec n) (hn : n ≤ 32) : (x.setWidth 32).toNat = x.toNat :=
    BitVec.toNat_setWidth_of_le hn
  have field {n : Nat} (x : BitVec n) (b : Byte) : (0#21 ++ x ++ b).toNat = b.toNat + 2 ^ 8 * x.toNat := by
    simp only [toNat_append_add, BitVec.toNat_ofNat, Nat.zero_mod, Nat.mul_zero, Nat.add_zero]
  refine ⟨wordOf s.ERR.bits (by decide), ?_, ?_, ?_, ?_, ?_, ?_, wordOf s.ERRINFO (by decide), field s.WIDX s.WBUF,
    field s.RIDX s.RBUF, wordOf s.ROOT (by decide), wordOf s.HSIZE (by decide), wordOf s.MCOUNT (by decide), ?_,
    wordOf s.DNODE (by decide), fun _ => readReg_nfreq s, ?_, ?_, fun _ => readReg_code s, ?_,
    fun _ => readReg_unlisted s⟩
  iterate 6 exact fun h => by rw [errWord, h]; rfl
  · have valid : (0#23 ++ flagBit s.DSYM_VALID).toNat = s.DSYM_VALID.toNat := by
      simp only [toNat_append_add, flagBit, BitVec.toNat_ofBool, BitVec.toNat_ofNat, Nat.zero_mod, Nat.mul_zero, Nat.add_zero]
    exact valid ▸ toNat_append_add (0#23 ++ flagBit s.DSYM_VALID) s.DSYM
  · intro k hk
    rw [readReg_links s hk]
    simp only [toNat_append_add, BitVec.toNat_ofNat, Nat.zero_mod]
    omega
  · intro j hj
    rw [readReg_heap s hj, wordOf (readAt s.HEAP j) (by decide)]
  · intro b hb
    rw [readReg_len s hb, wordOf (readAt s.LEN b) (by decide)]

end Sys2Proof.Machine

/-! SUPPORT. One read attempt of the reader, and a push by the host (20_memory.md R44, R45, R47). -/

namespace Sys2Proof.Machine

/-! ## One read attempt (R45, R136) -/

theorem inRead_of_eof {s : State} (h : s.EOF = true) : inRead s = some (0x00#8, s) := by
  simp [inRead, h, Config.READ_FILL]

theorem inRead_of_empty {s : State} (h : s.EOF = false) (hi : s.IN = []) : inRead s = none := by
  simp [inRead, h, hi]

theorem inRead_of_byte {s : State} {b : Byte} {rest : List Token} (h : s.EOF = false) (hi : s.IN = .byte b :: rest) :
    inRead s = some (b, { s with IN := rest }) := by
  simp [inRead, h, hi]

theorem inRead_of_endMark {s : State} {rest : List Token} (h : s.EOF = false) (hi : s.IN = .endMark :: rest) :
    inRead s = some (0x00#8, { s with IN := rest, EOF := true }) := by
  simp [inRead, h, hi, Config.READ_FILL]

/-- Settles O39: by `EOF` and the head of `IN`. -/
theorem inReadAttempt : Obligations.InReadAttempt := fun _ =>
  ⟨inRead_of_eof, inRead_of_empty, fun _ _ => inRead_of_byte, fun _ => inRead_of_endMark⟩

/-! ## The host pushes a token (R44, R47) -/

/-- R44: `s` with one more token at the end of `IN`. -/
def withToken (tok : Token) (s : State) : State := { s with IN := s.IN ++ [tok] }

/-- R44: while no command holds, a push appends its token only. -/
theorem pushToken_idle {s : State} (h : s.BUSY = false) (tok : Token) :
    pushToken tok s = .next (withToken tok s) := by
  simp [pushToken, withToken, h]

/-- R47: while a command holds, a push appends its token and retries the command. -/
theorem pushToken_held {s : State} (h : s.BUSY = true) (tok : Token) :
    pushToken tok s = resume (withToken tok s) := by
  simp [pushToken, withToken, h]

/-- R47: the retry of a held command runs it again, and retires it once it holds no more. -/
theorem resume_of_decode {s : State} {i : Instr} (hp : s.PHASE ≠ .fault) (hd : decode s.CUR_CMD = some i) :
    resume s = retired (exec i s) := by
  rw [resume, executeWord_of_decode hd (.inl hp), retireOutcome_eq_retired]

/-- R12: behind words that wait, an action that is no word is the one taken during a hold. -/
theorem takeWhileHolding_behind_words {a : HostAction} (ha : ∀ w, a ≠ .write w) (ws : List CmdWord)
    (q : List HostAction) : takeWhileHolding (ws.map .write ++ a :: q) = some (a, ws.map .write ++ q) := by
  induction ws with
  | nil =>
    cases a with
    | write w => exact absurd rfl (ha w)
    | push _ | drain _ | read _ | reset => rfl
  | cons w ws ih => simp [takeWhileHolding, ih]

/-- Settles O5: the push is the next action, and its retry runs the held command. -/
theorem pushResumesHeldCommand : Obligations.PushResumesHeldCommand := by
  refine fun s ws tok q => ⟨fun hb hq => ?_, fun i hb hq hp hd => ?_⟩
  · simp only [step, hostStep, nextAction_idle hb hq]
    exact pushToken_idle (s := { s with HOSTQ := q }) hb tok
  · have next : nextAction s = some (.push tok, ws.map .write ++ q) := by
      simp only [nextAction, hb, if_true, hq]
      exact takeWhileHolding_behind_words (by simp) ws q
    simp only [step, hostStep, next]
    exact (pushToken_held (s := { s with HOSTQ := ws.map .write ++ q }) hb tok).trans (resume_of_decode hp hd)

end Sys2Proof.Machine

/-! SUPPORT. A hold is transparent (20_memory.md R47): the descent reads a token pushed during a hold as it would have
read it had it stood in `IN` before. -/

namespace Sys2Proof.Machine

/-! ## A bit that is there is read the same with one more token -/

theorem inRead_withToken {s u : State} {b : Byte} (h : inRead s = some (b, u)) (tok : Token) :
    inRead (withToken tok s) = some (b, withToken tok u) := by
  obtain ⟨he, e⟩ | ⟨_, _, e⟩ | ⟨_, rest, he, hi, e⟩ | ⟨rest, he, hi, e⟩ := inRead_cases s <;> rw [e] at h <;> cases h
  · exact inRead_of_eof he
  · exact inRead_of_byte (rest := rest ++ [tok]) he (by simp [withToken, hi])
  · exact inRead_of_endMark (rest := rest ++ [tok]) he (by simp [withToken, hi])

theorem readBit_withToken {s u : State} {r : Bool} (h : readBit s = some (r, u)) (tok : Token) :
    readBit (withToken tok s) = some (r, withToken tok u) := by
  by_cases h7 : s.RIDX = 7#3
  · rw [readBit_last h7, Option.map_eq_some_iff] at h
    obtain ⟨⟨b, v⟩, hv, e⟩ := h
    cases e
    rw [readBit_last (s := withToken tok s) h7, inRead_withToken hv]
    rfl
  · rw [readBit_inside h7] at h
    cases h
    exact readBit_inside (s := withToken tok s) h7

/-! ## The descent does not look at `BUSY` -/

theorem inRead_hold (s : State) : inRead (hold s) = (inRead s).map fun p => (p.1, hold p.2) := by
  obtain ⟨he, e⟩ | ⟨he, hi, e⟩ | ⟨_, _, he, hi, e⟩ | ⟨_, he, hi, e⟩ := inRead_cases s <;> rw [e]
  · exact inRead_of_eof he
  · exact inRead_of_empty he hi
  · exact inRead_of_byte he hi
  · exact inRead_of_endMark he hi

theorem readBit_hold (s : State) : readBit (hold s) = (readBit s).map fun p => (p.1, hold p.2) := by
  by_cases h7 : s.RIDX = 7#3
  · rw [readBit_last h7, readBit_last (s := hold s) h7, inRead_hold, Option.map_map, Option.map_map]
    rfl
  · rw [readBit_inside h7]
    exact readBit_inside (s := hold s) h7

/-- R47: a descent goes on from a hold as from the state that held. -/
theorem descend_hold (fuel : Nat) : ∀ s : State, descend fuel (hold s) = descend fuel s := by
  induction fuel with
  | zero => exact fun _ => rfl
  | succ fuel ih =>
    intro s
    cases hr : readBit s with
    | none => rw [descend_of_hold hr, descend_of_hold (by rw [readBit_hold, hr]; rfl)]; rfl
    | some p =>
      obtain ⟨r, u⟩ := p
      have hr' : readBit (hold s) = some (r, hold u) := by rw [readBit_hold, hr]; rfl
      cases hc : u.child? u.DNODE r with
      | none =>
        have hc' : (hold u).child? (hold u).DNODE r = none := hc
        simp only [descend, hr, hr', hc, hc']
      | some d =>
        rw [descend_of_child hr hc, descend_of_child hr' (d := d) hc]
        exact congrArg (ite _ _) (ih { u with DSTATE := .descending, DNODE := d })

/-! ## The descent on a tree -/

/-- A descent of DSYM on a tree: it stands on an internal node, the root where no edge has been taken yet. -/
structure Descent (s : State) : Prop where
  older : olderChildren s
  inner : 256 ≤ s.DNODE.toNat
  node : s.DNODE.toNat ≤ 510
  start : s.DSTATE = .atRoot → s.DNODE = s.ROOT

/-- A token more does not move the descent. -/
theorem Descent.pushed {s : State} (h : Descent s) (tok : Token) : Descent (withToken tok s) := { h with }

/-- R141: a bit leads to an older child; an internal one goes on with the descent. -/
theorem Descent.toChild {s u : State} {r : Bool} (h : Descent s) (hr : readBit s = some (r, u)) :
    ∃ d, u.child? u.DNODE r = some d ∧ d.toNat < s.DNODE.toNat ∧
      (isLeaf d = false → Descent { u with DSTATE := .descending, DNODE := d }) := by
  obtain ⟨f, _⟩ := readBit_eq hr
  obtain ⟨d, hc, hd⟩ := child?_older h.older h.inner h.node r
  rw [f]
  exact ⟨d, hc, hd, fun hl => ⟨h.older, (isLeaf_eq_false_iff d).1 hl, hd.le.trans h.node, nofun⟩⟩

/-- R192: each child is older than its parent, so any fuel above the nodes left to descend to answers the same. -/
theorem Descent.fuel_irrelevant (f : Nat) : ∀ {g : Nat} {s : State}, Descent s → s.DNODE.toNat < 256 + f →
    s.DNODE.toNat < 256 + g → descend f s = descend g s := by
  induction f with
  | zero => exact fun h hf _ => absurd h.inner (by omega)
  | succ f ih =>
    intro g s h hf hg
    obtain _ | g := g
    · exact absurd h.inner (by omega)
    cases hr : readBit s with
    | none => rw [descend_of_hold hr, descend_of_hold hr]
    | some p =>
      obtain ⟨d, hc, hd, down⟩ := h.toChild hr
      rw [descend_of_child hr hc, descend_of_child hr hc]
      cases hl : isLeaf d
      · exact ih (down hl) (hd.trans_le (Nat.le_of_lt_succ hf)) (hd.trans_le (Nat.le_of_lt_succ hg))
      · rfl

/-- A descent that holds stands on the tree still. -/
theorem Descent.of_held (fuel : Nat) : ∀ {s t : State}, Descent s → descend fuel s = .next t → t.BUSY = true →
    Descent t := by
  induction fuel with
  | zero => exact fun _ h => nomatch h
  | succ fuel ih =>
    intro s t hs h hb
    obtain ⟨_, rfl⟩ | ⟨r, u, d, hr, hc, ⟨_, rfl⟩ | ⟨hl, h⟩⟩ := descend_cases h
    · exact { hs with }
    · cases hb
    · obtain ⟨d', hc', _, down⟩ := hs.toChild hr
      obtain rfl : d' = d := Option.some.inj (hc'.symm.trans hc)
      exact ih (down hl) h hb

/-- R47: where a descent holds, the descent with one more token from its start is the one that goes on from the hold. -/
theorem Descent.resume_held (fuel : Nat) (tok : Token) : ∀ {f g : Nat} {s t : State}, Descent s →
    descend fuel s = .next t → t.BUSY = true → s.DNODE.toNat < 256 + f → s.DNODE.toNat < 256 + g →
    descend g (withToken tok t) = descend f (withToken tok s) := by
  induction fuel with
  | zero => exact fun _ h => nomatch h
  | succ fuel ih =>
    intro f g s t hs h hb hf hg
    obtain ⟨_, rfl⟩ | ⟨r, u, d, hr, hc, ⟨_, rfl⟩ | ⟨hl, h⟩⟩ := descend_cases h
    · exact (descend_hold g (withToken tok s)).trans ((hs.pushed tok).fuel_irrelevant g hg hf)
    · cases hb
    · obtain ⟨d', hc', hd, down⟩ := hs.toChild hr
      obtain rfl : d' = d := Option.some.inj (hc'.symm.trans hc)
      obtain _ | f := f
      · exact absurd hs.inner (by omega)
      rw [descend_of_child (readBit_withToken hr tok) (d := d') hc, hl]
      exact ih (down hl) h hb (hd.trans_le (Nat.le_of_lt_succ hf)) (hd.trans hg)

/-! ## DSYM -/

/-- R64: a DSYM its phase and an open reader admit runs. -/
theorem exec_dsym_of_open {s : State} (hp : s.PHASE = .built ∨ s.PHASE = .assigned) (ho : s.RD_OPEN = true) :
    exec .dsym s = run .dsym s := by
  have notFault : s.PHASE ≠ .fault := by rcases hp with hp | hp <;> simp [hp]
  exact exec_of_ok (i := .dsym) (by simp) notFault (by simpa [phaseOk, ho] using hp)

/-- R142: before the end DSYM descends. -/
theorem run_dsym_before_end {s : State} (he : s.EOF = false) :
    run .dsym s = descend (descendFuel s) (descendStart s) := by
  obtain ⟨_, he', _⟩ | ⟨_, e⟩ := run_dsym_eq s
  · exact absurd (he.symm.trans he') nofun
  · exact e

@[simp] theorem descendStart_fields (s : State) :
    (descendStart s).EOF = s.EOF ∧ (descendStart s).RD_OPEN = s.RD_OPEN := by
  unfold descendStart
  split <;> exact ⟨rfl, rfl⟩

/-- R47: a DSYM that holds does so in its descent, before the end. -/
theorem run_dsym_held {s t : State} (h : run .dsym s = .next t) (hb : t.BUSY = true) :
    s.EOF = false ∧ t.EOF = false ∧ descend (descendFuel s) (descendStart s) = .next t := by
  obtain ⟨_, _, e⟩ | ⟨_, e⟩ := run_dsym_eq s <;> rw [e] at h
  · cases h
    cases hb
  · obtain ⟨_, ht, hs, _⟩ := descend_held h hb
    exact ⟨by simpa using hs, ht, h⟩

/-- R142: DSYM starts at the root, or goes on where it held. -/
theorem descent_descendStart {s : State} (hr : s.ROOT = 510#9) (older : olderChildren s)
    (hd : s.DSTATE = .descending → 256 ≤ s.DNODE.toNat ∧ s.DNODE.toNat ≤ 510) : Descent (descendStart s) := by
  unfold descendStart
  cases hs : s.DSTATE with
  | atRoot => exact ⟨older, by simp [hr], by simp [hr], fun _ => rfl⟩
  | descending => exact ⟨older, (hd hs).1, (hd hs).2, fun h => absurd (hs.symm.trans h) nofun⟩

/-- A descent at the root stands where DSYM would start. -/
theorem Descent.descendStart_eq {s : State} (h : Descent s) : descendStart s = s := by
  unfold descendStart
  split
  next hs => exact congrArg (fun n => { s with DNODE := n }) (h.start hs).symm
  next => rfl

theorem descendStart_withToken (tok : Token) (s : State) :
    descendStart (withToken tok s) = withToken tok (descendStart s) := by
  cases hs : s.DSTATE <;> simp [descendStart, withToken, hs]

/-- The fuel of DSYM is above the nodes of every descent. -/
theorem Descent.below_fuel {s : State} (h : Descent s) (t : State) : s.DNODE.toNat < 256 + descendFuel t := by
  have := h.node
  simp only [descendFuel]
  omega

/-- Settles O47: the retry goes on from where the descent held, with fuel enough either way. -/
theorem holdIsTransparent : Obligations.HoldIsTransparent := by
  intro s t tok hp ho hr older hd h hb
  obtain ⟨⟨phase, _⟩, _⟩ := run_reader_frame (.inr rfl) (exec_dsym_of_open hp ho ▸ h)
  obtain ⟨hs, ht, h⟩ := run_dsym_held (exec_dsym_of_open hp ho ▸ h) hb
  have start := descent_descendStart hr older hd
  have held : Descent t := start.of_held _ h hb
  have opened : t.RD_OPEN = true := by
    obtain ⟨_, _, _, _, _, e, _⟩ := descend_frame h
    simpa [ho] using e
  calc exec .dsym (withToken tok t)
      = run .dsym (withToken tok t) := exec_dsym_of_open (phase ▸ hp) opened
    _ = descend _ (withToken tok t) := by
      rw [run_dsym_before_end (s := withToken tok t) ht, descendStart_withToken, held.descendStart_eq]
    _ = descend _ (withToken tok (descendStart s)) :=
      start.resume_held _ tok h hb (start.below_fuel (withToken tok s)) (start.below_fuel (withToken tok t))
    _ = run .dsym (withToken tok s) := by
      rw [run_dsym_before_end (s := withToken tok s) hs, descendStart_withToken]
    _ = exec .dsym (withToken tok s) := (exec_dsym_of_open (s := withToken tok s) hp ho).symm

end Sys2Proof.Machine

/-! SUPPORT. The decoder reads back the word of every command, and reads no word but these (30_encoding.md R60 to R63). -/

namespace Sys2Proof

/-! ## The word of a command decodes to it -/

/-- R62: the decoder sees the opcode and the operand of the command in its word, and `RSV = 0`. -/
theorem decode_encode_fields (i : Instr) :
    decode (encode i) =
      if i.op = 0x2#4 then some (.train i.imm8)
      else if i.op = 0x5#4 then some (.enc i.imm8)
      else if i.imm8 = 0#8 then decodePlain i.op else none := by
  simp only [decode, encode, Laws.LegalWord.op_append, Laws.LegalWord.rsv_append, Laws.LegalWord.imm8_append, if_true]

@[simp] theorem decode_encode (i : Instr) : decode (encode i) = some i := by
  rw [decode_encode_fields]
  cases i <;> rfl

/-- Settles O1: the opcodes are distinct, and the word holds opcode and operand in fields of their own. -/
theorem decodeEncodeRoundTrip : Obligations.DecodeEncodeRoundTrip := decode_encode

/-! ## The fields of a word as numbers (R60) -/

theorem CmdWord.op_toNat (w : CmdWord) : (CmdWord.op w).toNat = w.toNat / 2 ^ 12 := by
  have := w.isLt
  rw [CmdWord.op, BitVec.extractLsb'_toNat, Nat.shiftRight_eq_div_pow]
  omega

theorem CmdWord.rsv_toNat (w : CmdWord) : (CmdWord.rsv w).toNat = w.toNat / 2 ^ 8 % 2 ^ 4 := by
  rw [CmdWord.rsv, BitVec.extractLsb'_toNat, Nat.shiftRight_eq_div_pow]

theorem CmdWord.imm8_toNat (w : CmdWord) : (CmdWord.imm8 w).toNat = w.toNat % 2 ^ 8 := by
  rw [CmdWord.imm8, BitVec.extractLsb'_toNat, Nat.shiftRight_zero]

/-! ## The legal words are those that decode (R63) -/

theorem CmdWord.legalEncoding_iff (w : CmdWord) :
    CmdWord.legalEncoding w = true ↔
      (CmdWord.op w).toNat ≤ 8 ∧ CmdWord.rsv w = 0#4 ∧
        (CmdWord.imm8 w = 0#8 ∨ CmdWord.op w = 0x2#4 ∨ CmdWord.op w = 0x5#4) := by
  simp only [CmdWord.legalEncoding, CmdWord.opDefined, CmdWord.rsvZero, CmdWord.immAllowed, Bool.and_eq_true,
    decide_eq_true_eq, and_assoc]

/-- R63: the three checks as numbers. -/
theorem CmdWord.legalEncoding_iff_toNat (w : CmdWord) :
    CmdWord.legalEncoding w = true ↔
      w.toNat / 2 ^ 12 ≤ 8 ∧ w.toNat / 2 ^ 8 % 2 ^ 4 = 0 ∧
        (w.toNat % 2 ^ 8 = 0 ∨ w.toNat / 2 ^ 12 = 2 ∨ w.toNat / 2 ^ 12 = 5) := by
  simp only [CmdWord.legalEncoding_iff, ← BitVec.toNat_inj, CmdWord.op_toNat, CmdWord.rsv_toNat, CmdWord.imm8_toNat]
  rfl

/-- R62: the opcodes of the commands without operand. -/
theorem decodePlain_isSome_iff :
    ∀ o : BitVec 4, (decodePlain o).isSome = true ↔ o.toNat ≤ 8 ∧ o ≠ 0x2#4 ∧ o ≠ 0x5#4 := by decide

theorem decode_isSome_iff (w : CmdWord) : (decode w).isSome = true ↔ CmdWord.legalEncoding w = true := by
  rw [CmdWord.legalEncoding_iff, decode]
  split
  next hr =>
    split
    next ho => simp [hr, ho]
    next h2 =>
      split
      next ho => simp [hr, ho]
      next h5 =>
        split
        next hi => simp [decodePlain_isSome_iff, hr, h2, h5, hi]
        next hi => simp [h2, h5, hi]
  next hr => simp [hr]

/-- Settles O2: field by field, along the checks of the decoder; a word is put together again from its fields. -/
theorem decodesExactlyLegalWords : Obligations.DecodesExactlyLegalWords := fun w =>
  ⟨CmdWord.legalEncoding_iff_toNat w, decode_isSome_iff w, fun _ => encode_of_decode⟩

/-! ## The rows of the opcode table (R62, R67) -/

theorem decodeTableWord_toNat (w : CmdWord) : decodeTableWord 16 w.toNat = decode w := by
  simp only [decodeTableWord, Nat.mod_eq_of_lt w.isLt, w.isLt, if_true, BitVec.ofNat_toNat, BitVec.setWidth_eq]

theorem decodeTableWord_encode (i : Instr) : decodeTableWord 16 (encode i).toNat = some i := by
  rw [decodeTableWord_toNat, decode_encode]

theorem decodeTableWord_of_illegal (w : CmdWord) (h : CmdWord.legalEncoding w = false) :
    decodeTableWord 16 w.toNat = none := by
  rw [decodeTableWord_toNat, ← Option.not_isSome_iff_eq_none, decode_isSome_iff, h]
  decide

/-- Settles O3: each row is the word of its command, and each of the other words fails one check of R63. -/
theorem sampleWordsDecode : Obligations.SampleWordsDecode :=
  ⟨decodeTableWord_encode .nop, decodeTableWord_encode .clear, decodeTableWord_encode (.train 0x00#8),
    decodeTableWord_encode (.train 0xFF#8), decodeTableWord_encode (.train 0x61#8), decodeTableWord_encode .build,
    decodeTableWord_encode .assign, decodeTableWord_encode (.enc 0x00#8), decodeTableWord_encode (.enc 0xFF#8),
    decodeTableWord_encode (.enc 0x41#8), decodeTableWord_encode .flush, decodeTableWord_encode .dopen,
    decodeTableWord_encode .dsym, decodeTableWord_of_illegal 0x9000#16 (by decide),
    decodeTableWord_of_illegal 0x0100#16 (by decide), decodeTableWord_of_illegal 0x3001#16 (by decide)⟩

end Sys2Proof

/-! SUPPORT. The assembler on a text of one line (30_encoding.md R68). -/

namespace Sys2Proof.Asm

theorem splitLines_of_no_newline (cs acc : List Char) (h : '\n' ∉ cs) : splitLines cs acc = [acc.reverse ++ cs] := by
  induction cs generalizing acc with
  | nil => simp [splitLines]
  | cons c cs ih =>
    obtain ⟨hc, hcs⟩ := not_or.mp (mt List.mem_cons.mpr h)
    simp [splitLines, Ne.symm hc, ih _ hcs]

/-- R68: a text of one line stands for the words of the commands of that line. -/
theorem assemble_of_line {cs : List Char} (is : List Instr) (one : '\n' ∉ cs) (h : line cs = some is) :
    assemble cs = some (is.map Sys2Proof.encode) := by
  simp [assemble, splitLines_of_no_newline cs [] one, h]

/-- Settles O56: each text is one line, read as the commands written here. -/
theorem assemblerExamples : Obligations.AssemblerExamples :=
  ⟨assemble_of_line [.train 0x61#8] (by decide) rfl,
    assemble_of_line [.enc 0x41#8] (by decide) rfl,
    assemble_of_line [.dsym] (by decide) rfl,
    assemble_of_line (Pseudo.encode [0x41#8, 0x42#8]) (by decide) rfl,
    assemble_of_line (Pseudo.dsymN 2) (by decide) rfl⟩

end Sys2Proof.Asm

/-! SUPPORT. NOP, CLEAR and TRAIN (40_control_training.md R80 to R83). -/

namespace Sys2Proof.Machine

/-! ## NOP and CLEAR -/

/-- Settles O12: phase FAULT ignores the word, and every other phase admits it. -/
theorem nopChangesNothing : Obligations.NopChangesNothing := by
  intro s
  rw [exec_eq_guarded (by decide)]
  by_cases hp : s.PHASE = .fault
  · exact guarded_of_fault hp
  · exact guarded_of_ok hp (by simpa [phaseOk] using hp)

/-- R65, R167: a word that phase FAULT ignores. -/
theorem executeWord_of_fault {w : CmdWord} {s : State} (h : s.PHASE = .fault) (hw : w ≠ CLEAR_WORD) :
    executeWord w s = .next s := by simp [executeWord, h, hw]

/-- Settles O13: CLEAR passes no check, and phase FAULT ignores every other word. -/
theorem clearGivesResetValues : Obligations.ClearGivesResetValues := by
  refine ⟨fun s => ⟨_, exec_clear s, hasResetValues_toReset s, rfl, rfl, rfl, rfl⟩, fun s t w hs h ht => ?_⟩
  by_contra hw
  rw [executeWord_of_fault hs hw] at h
  cases h
  exact ht hs

/-! ## One TRAIN (R82) -/

/-- R64: in phase TRAIN a TRAIN runs. -/
theorem exec_train_eq_run {s : State} (hp : s.PHASE = .train) (b : Byte) :
    exec (.train b) s = run (.train b) s :=
  exec_of_ok (by simp) (by simp [hp]) (by simp [phaseOk, hp])

/-- R82: a count below the maximum goes up. -/
theorem exec_train_of_room {s : State} {b : Byte} (hp : s.PHASE = .train)
    (room : (s.nfreq (leafOf b)).toNat < 2 ^ 32 - 1) : exec (.train b) s = .next (countByte b s) := by
  rw [exec_train_eq_run hp]
  exact if_neg room.ne

/-- R82: the elements a TRAIN does not count. -/
theorem readAt_countByte_other (s : State) {b : Byte} {i : Nat} (h : i ≠ b.toNat) :
    readAt (countByte b s).NFREQ i = readAt s.NFREQ i := by
  simp [readAt_writeAt_other _ _ h.symm]

/-- R82: the count is exact. -/
theorem countByte_count {s : State} {b : Byte} (room : (s.nfreq (leafOf b)).toNat < 2 ^ 32 - 1) :
    ((countByte b s).nfreq (leafOf b)).toNat = (s.nfreq (leafOf b)).toNat + 1 := by
  have inArray : (leafOf b).toNat < 511 := by simp; omega
  have counted : (countByte b s).nfreq (leafOf b) = s.nfreq (leafOf b) + 1#32 := readAt_writeAt_same _ _ inArray
  rw [counted]
  exact BitVec.toNat_add_of_lt (by simpa using by omega)

/-- Settles O14: the check of R65, then the two branches of TRAIN. -/
theorem trainCountsOneByte : Obligations.TrainCountsOneByte := by
  intro s b
  refine ⟨fun hp room => ?_, fun hp full => ?_, fun hp => ?_⟩
  · exact ⟨_, exec_train_of_room hp room, rfl, countByte_count room, fun _ _ => readAt_countByte_other s⟩
  · rw [exec_train_eq_run hp]
    exact if_pos full
  · obtain ⟨notFault, bad⟩ : s.PHASE ≠ .fault ∧ phaseOk (.train b) s.PHASE s.RD_OPEN = false := by
      rcases hp with hp | hp <;> simp [phaseOk, hp]
    rw [exec_eq_guarded (by simp), guarded_of_bad notFault bad]
    exact ⟨_, rfl, rfl, rfl⟩

/-! ## A training session (R83) -/

/-- R83: `t` is `s` with the bytes of `l` counted, and nothing else changed. -/
structure Counted (s : State) (l : List Byte) (t : State) : Prop where
  frame : t = { s with NFREQ := t.NFREQ }
  leaves : ∀ b : Byte, (t.nfreq (leafOf b)).toNat = (s.nfreq (leafOf b)).toNat + l.count b
  inner : ∀ i, 256 ≤ i → i < 511 → readAt t.NFREQ i = readAt s.NFREQ i

theorem counted_nil (s : State) : Counted s [] s := ⟨rfl, fun _ => rfl, fun _ _ _ => rfl⟩

/-- One byte more at the front of the session. -/
theorem Counted.cons {s t : State} {b : Byte} {l : List Byte} (room : (s.nfreq (leafOf b)).toNat < 2 ^ 32 - 1)
    (h : Counted (countByte b s) l t) : Counted s (b :: l) t where
  frame := h.frame
  leaves c := by
    rw [h.leaves]
    by_cases hc : c = b
    · subst hc
      rw [countByte_count room, List.count_cons_self]
      omega
    · have other : (countByte b s).nfreq (leafOf c) = s.nfreq (leafOf c) :=
        readAt_countByte_other s (by simpa [BitVec.toNat_inj] using hc)
      rw [other, List.count_cons_of_ne (Ne.symm hc)]
  inner i hi hi' := (h.inner i hi hi').trans (readAt_countByte_other s (by omega))

/-- The order of the bytes does not show. -/
theorem Counted.perm {s t : State} {l m : List Byte} (h : Counted s l t) (p : l.Perm m) : Counted s m t :=
  { h with leaves := fun b => by rw [h.leaves, p.count_eq] }

/-- The counts fix the state a session leaves. -/
theorem Counted.unique {s t u : State} {l : List Byte} (ht : Counted s l t) (hu : Counted s l u) : t = u := by
  have counts : t.NFREQ = u.NFREQ := by
    refine eq_of_readAt_eq fun i hi => ?_
    by_cases leaf : i < 256
    · have same : t.nfreq (leafOf (BitVec.ofNat 8 i)) = u.nfreq (leafOf (BitVec.ofNat 8 i)) :=
        BitVec.eq_of_toNat_eq ((ht.leaves _).trans (hu.leaves _).symm)
      simpa [State.nfreq, Nat.mod_eq_of_lt leaf] using same
    · exact (ht.inner i (by omega) hi).trans (hu.inner i (by omega) hi).symm
  rw [ht.frame, hu.frame, counts]

/-- R83: a session whose counts fit runs to its end, byte by byte. -/
theorem runCommands_trainStr (l : List Byte) : ∀ {s : State}, s.PHASE = .train →
    (∀ b : Byte, (s.nfreq (leafOf b)).toNat + l.count b ≤ 2 ^ 32 - 1) →
    ∃ t, runCommands (Pseudo.trainStr l) s = .next t ∧ Counted s l t := by
  induction l with
  | nil => exact fun _ _ => ⟨_, rfl, counted_nil _⟩
  | cons b l ih =>
    intro s hp fits
    have room : (s.nfreq (leafOf b)).toNat < 2 ^ 32 - 1 := by
      have := fits b
      rw [List.count_cons_self] at this
      omega
    have one : Counted s [b] (countByte b s) := (counted_nil _).cons room
    obtain ⟨t, ht, counted⟩ := ih (s := countByte b s) hp fun c => by
      have := fits c
      rw [List.count_cons] at this
      rw [one.leaves, List.count_singleton]
      omega
    refine ⟨t, ?_, counted.cons room⟩
    rw [Pseudo.trainStr, List.map_cons, runCommands, exec_train_of_room hp room]
    exact ht

/-- Settles O15: both sessions run, and the counts they share fix where they end. -/
theorem trainingSessionCounts : Obligations.TrainingSessionCounts := by
  intro s l hp fits
  obtain ⟨t, ht, counted⟩ := runCommands_trainStr l hp fits
  refine ⟨t, ht, counted.frame, counted.leaves, counted.inner, fun m p => ?_⟩
  obtain ⟨u, hu, counted'⟩ := runCommands_trainStr m hp fun b => p.count_eq b ▸ fits b
  rw [hu, counted.unique (counted'.perm p.symm)]

end Sys2Proof.Machine

/-! SUPPORT. The sifts of the heap (41_tree_builder.md R94, R96): their bound on the rounds never shows, they move the
handles of the slots in use among these slots, and they restore heap order (R93). -/

namespace Sys2Proof.Machine

/-! ## The bound on the rounds never shows -/

/-- R94: one round of the sift-down loop. -/
theorem siftDownLoop_succ (nf : Vector Freq 511) (hsize fuel i : Nat) (heap : Vector Handle 256) :
    siftDownLoop nf hsize (fuel + 1) i heap =
      if hsize ≤ 2 * i + 1 then heap
      else if slotFreq nf heap (smallerChild nf hsize heap i) < slotFreq nf heap i then
        siftDownLoop nf hsize fuel (smallerChild nf hsize heap i) (swapSlots heap i (smallerChild nf hsize heap i))
      else heap := rfl

/-- R96: one round of the sift-up loop. -/
theorem siftUpLoop_succ (nf : Vector Freq 511) (fuel i : Nat) (heap : Vector Handle 256) :
    siftUpLoop nf (fuel + 1) i heap =
      if i = 0 then heap
      else if slotFreq nf heap i < slotFreq nf heap ((i - 1) / 2) then
        siftUpLoop nf fuel ((i - 1) / 2) (swapSlots heap i ((i - 1) / 2))
      else heap := rfl

/-- R94: the child slot taken is one of the two children, and it is in the heap where the left one is. -/
theorem smallerChild_cases (nf : Vector Freq 511) (hsize : Nat) (heap : Vector Handle 256) (i : Nat) :
    smallerChild nf hsize heap i = 2 * i + 1 ∨
      (smallerChild nf hsize heap i = 2 * i + 2 ∧ 2 * i + 2 < hsize) := by
  unfold smallerChild
  split
  next h => exact .inr ⟨rfl, h.1⟩
  next => exact .inl rfl

/-- R94: no child in the heap is smaller than the one taken. -/
theorem slotFreq_smallerChild_le (nf : Vector Freq 511) {hsize : Nat} (heap : Vector Handle 256) {i j : Nat}
    (hj : j < hsize) (hc : j = 2 * i + 1 ∨ j = 2 * i + 2) :
    slotFreq nf heap (smallerChild nf hsize heap i) ≤ slotFreq nf heap j := by
  unfold smallerChild
  split
  next h => rcases hc with rfl | rfl <;> omega
  next h => rcases hc with rfl | rfl <;> omega

/-- R94: a round more makes no difference where the bound exceeds the rounds left: slot `i + 1` doubles every round. -/
theorem siftDownLoop_fuel_succ (nf : Vector Freq 511) (hsize fuel : Nat) :
    ∀ (i : Nat) (heap : Vector Handle 256), hsize < (i + 1) * 2 ^ (fuel + 1) →
      siftDownLoop nf hsize (fuel + 1) i heap = siftDownLoop nf hsize fuel i heap := by
  induction fuel with
  | zero =>
    intro i heap h
    rw [siftDownLoop_succ, if_pos (by omega)]
    rfl
  | succ fuel ih =>
    intro i heap h
    have down : hsize < (smallerChild nf hsize heap i + 1) * 2 ^ (fuel + 1) := by
      refine h.trans_le ?_
      rw [pow_succ' 2 (fuel + 1), ← mul_assoc]
      refine Nat.mul_le_mul_right _ ?_
      have := smallerChild_cases nf hsize heap i
      omega
    rw [siftDownLoop_succ nf hsize (fuel + 1), ih _ _ down, ← siftDownLoop_succ]

/-- R96: a round more makes no difference where the bound exceeds the rounds left: slot `i + 1` halves every round. -/
theorem siftUpLoop_fuel_succ (nf : Vector Freq 511) (fuel : Nat) :
    ∀ (i : Nat) (heap : Vector Handle 256), i < 2 ^ fuel →
      siftUpLoop nf (fuel + 1) i heap = siftUpLoop nf fuel i heap := by
  induction fuel with
  | zero =>
    intro i heap h
    rw [siftUpLoop_succ, if_pos (by omega)]
    rfl
  | succ fuel ih =>
    intro i heap h
    have up : (i - 1) / 2 < 2 ^ fuel := by omega
    rw [siftUpLoop_succ nf (fuel + 1), ih _ _ up, ← siftUpLoop_succ]

/-- Settles O20: after one round, the bound of 8 rounds left is as good as 9. -/
theorem siftDownIsTheLoop : Obligations.SiftDownIsTheLoop := by
  intro nf hsize i heap hsize_le
  have enough : hsize < (smallerChild nf hsize heap i + 1) * 2 ^ (8 + 1) := by omega
  rw [siftDown, SIFT_ROUNDS, siftDownLoop_succ, ← siftDownLoop_fuel_succ nf hsize 8 _ _ enough]
  rfl

/-- Settles O21: after one round, the bound of 8 rounds left is as good as 9. -/
theorem siftUpIsTheLoop : Obligations.SiftUpIsTheLoop := by
  intro nf i heap hi
  have enough : (i - 1) / 2 < 2 ^ 8 := by omega
  rw [siftUp, SIFT_ROUNDS, siftUpLoop_succ, ← siftUpLoop_fuel_succ nf 8 _ _ enough]
  rfl

/-! ## The sifts move the handles in use among their slots -/

/-- The handles of the slots 0 to `n - 1`, slot 0 first. -/
def slots (heap : Vector Handle 256) (n : Nat) : List Handle := (List.range n).map fun j => readAt heap j

theorem heapHandles_eq_slots (s : State) : heapHandles s = slots s.HEAP s.HSIZE.toNat := rfl

theorem mem_slots {heap : Vector Handle 256} {n : Nat} {h : Handle} :
    h ∈ slots heap n ↔ ∃ j, j < n ∧ readAt heap j = h := by
  simp [slots]

theorem slots_succ (heap : Vector Handle 256) (n : Nat) : slots heap (n + 1) = slots heap n ++ [readAt heap n] := by
  simp [slots, List.range_succ]

/-- A write to a slot that is not in use does not show in those that are. -/
theorem slots_writeAt {heap : Vector Handle 256} {n i : Nat} (h : n ≤ i) (x : Handle) :
    slots (writeAt heap i x) n = slots heap n :=
  List.map_congr_left fun j hj =>
    readAt_writeAt_other heap x fun e => absurd (List.mem_range.1 hj) (by omega)

/-- `heap'` is `heap` with the handles of its first `n` slots in another order. -/
structure Rearranged (n : Nat) (heap heap' : Vector Handle 256) : Prop where
  handles : (slots heap' n).Perm (slots heap n)
  above : ∀ j, n ≤ j → readAt heap' j = readAt heap j

theorem Rearranged.refl (n : Nat) (heap : Vector Handle 256) : Rearranged n heap heap := ⟨.rfl, fun _ _ => rfl⟩

theorem Rearranged.trans {n : Nat} {heap heap' heap'' : Vector Handle 256} (h : Rearranged n heap heap')
    (g : Rearranged n heap' heap'') : Rearranged n heap heap'' :=
  ⟨g.handles.trans h.handles, fun j hj => (g.above j hj).trans (h.above j hj)⟩

/-- A swap of two slots in use. -/
theorem rearranged_swapSlots (heap : Vector Handle 256) {n i j : Nat} (hn : n ≤ 256) (hi : i < n) (hj : j < n) :
    Rearranged n heap (swapSlots heap i j) := by
  have read (k : Nat) : readAt (swapSlots heap i j) k = readAt heap (Equiv.swap i j k) := by
    rw [readAt_swapSlots heap (by omega) (by omega), Equiv.swap_apply_def]
    split_ifs <;> simp_all
  have inUse (k : Nat) : Equiv.swap i j k < n ↔ k < n := by
    rw [Equiv.swap_apply_def]
    split_ifs <;> omega
  constructor
  case handles =>
    have moved : slots (swapSlots heap i j) n = ((List.range n).map (Equiv.swap i j)).map fun k => readAt heap k := by
      simp only [slots, read, List.map_map, Function.comp_def]
    rw [moved]
    refine List.Perm.map _ ((List.perm_ext_iff_of_nodup ?_ List.nodup_range).2 fun k => ?_)
    · exact List.nodup_range.map (Equiv.swap i j).injective
    · rw [← (Equiv.swap i j).apply_symm_apply k, List.mem_map_of_injective (Equiv.swap i j).injective]
      simp [inUse]
  case above =>
    intro k hk
    rw [read, Equiv.swap_apply_of_ne_of_ne (by omega) (by omega)]

/-- R94: sift-down swaps slots of the heap. -/
theorem rearranged_siftDownLoop (nf : Vector Freq 511) {hsize : Nat} (hs : hsize ≤ 256) (fuel : Nat) :
    ∀ (i : Nat) (heap : Vector Handle 256), Rearranged hsize heap (siftDownLoop nf hsize fuel i heap) := by
  induction fuel with
  | zero => exact fun _ heap => .refl hsize heap
  | succ fuel ih =>
    intro i heap
    rw [siftDownLoop_succ]
    split
    · exact .refl hsize heap
    · split
      · have := smallerChild_cases nf hsize heap i
        exact (rearranged_swapSlots heap hs (by omega) (by omega)).trans (ih _ _)
      · exact .refl hsize heap

/-- R96: sift-up swaps slots at or before its start. -/
theorem rearranged_siftUpLoop (nf : Vector Freq 511) {n : Nat} (hn : n ≤ 256) (fuel : Nat) :
    ∀ (i : Nat) (heap : Vector Handle 256), i < n → Rearranged n heap (siftUpLoop nf fuel i heap) := by
  induction fuel with
  | zero => exact fun _ heap _ => .refl n heap
  | succ fuel ih =>
    intro i heap hi
    rw [siftUpLoop_succ]
    split
    · exact .refl n heap
    · split
      · exact (rearranged_swapSlots heap hn hi (by omega)).trans (ih _ _ (by omega))
      · exact .refl n heap

/-- R98: the sift-downs of heapify keep the handles of the heap. -/
theorem rearranged_heapifyFrom (nf : Vector Freq 511) (n : Nat) :
    ∀ heap : Vector Handle 256, Rearranged 256 heap (heapifyFrom nf n heap) := by
  induction n with
  | zero => exact .refl 256
  | succ n ih => exact fun heap => (rearranged_siftDownLoop nf (Nat.le_refl 256) _ n heap).trans (ih _)

/-! ## Heap order below a slot, and with one slot out of order -/

/-- R93: heap order at and below the slots from `n` on. -/
def orderedFrom (nf : Vector Freq 511) (hsize n : Nat) (heap : Vector Handle 256) : Prop :=
  ∀ j, 1 ≤ j → j < hsize → n ≤ (j - 1) / 2 → slotFreq nf heap ((j - 1) / 2) ≤ slotFreq nf heap j

theorem orderedFrom_zero {nf : Vector Freq 511} {hsize : Nat} {heap : Vector Handle 256} :
    orderedFrom nf hsize 0 heap ↔ heapOrdered nf hsize heap := by
  simp [orderedFrom, heapOrdered]

/-- Heap order at and below slot `n`, except that slot `i` may exceed its children: what a round of sift-down keeps. -/
structure Sinking (nf : Vector Freq 511) (hsize n i : Nat) (heap : Vector Handle 256) : Prop where
  order : ∀ j, 1 ≤ j → j < hsize → n ≤ (j - 1) / 2 → (j - 1) / 2 ≠ i →
    slotFreq nf heap ((j - 1) / 2) ≤ slotFreq nf heap j
  grand : ∀ j, 1 ≤ j → j < hsize → (j - 1) / 2 = i → 1 ≤ i → n ≤ (i - 1) / 2 →
    slotFreq nf heap ((i - 1) / 2) ≤ slotFreq nf heap j

/-- Slot `i` does not exceed its children: there is heap order. -/
theorem Sinking.orderedFrom {nf : Vector Freq 511} {hsize n i : Nat} {heap : Vector Handle 256}
    (h : Sinking nf hsize n i heap)
    (small : 2 * i + 1 < hsize → slotFreq nf heap i ≤ slotFreq nf heap (smallerChild nf hsize heap i)) :
    orderedFrom nf hsize n heap := by
  intro j h1 hj hn
  by_cases e : (j - 1) / 2 = i
  · rw [e]
    exact (small (by omega)).trans (slotFreq_smallerChild_le nf heap hj (by omega))
  · exact h.order j h1 hj hn e

/-- R94: a swap with the smaller child moves the exception down to that child's slot. -/
theorem Sinking.swap {nf : Vector Freq 511} {hsize n i : Nat} {heap : Vector Handle 256} (hs : hsize ≤ 256)
    (h : Sinking nf hsize n i heap) (hi : 2 * i + 1 < hsize)
    (less : slotFreq nf heap (smallerChild nf hsize heap i) < slotFreq nf heap i) :
    Sinking nf hsize n (smallerChild nf hsize heap i) (swapSlots heap i (smallerChild nf hsize heap i)) := by
  have child := smallerChild_cases nf hsize heap i
  have least := fun j (hj : j < hsize) => slotFreq_smallerChild_le nf heap (i := i) hj
  generalize smallerChild nf hsize heap i = c at *
  have read := slotFreq_swapSlots nf heap (i := i) (j := c) (by omega) (by omega)
  have swapped_i : slotFreq nf (swapSlots heap i c) i = slotFreq nf heap c := by
    rw [read, if_neg (by omega), if_pos rfl]
  have swapped_c : slotFreq nf (swapSlots heap i c) c = slotFreq nf heap i := by rw [read, if_pos rfl]
  have other {k : Nat} (hi : k ≠ i) (hc : k ≠ c) : slotFreq nf (swapSlots heap i c) k = slotFreq nf heap k := by
    rw [read, if_neg hc, if_neg hi]
  constructor
  case order =>
    intro j h1 hj hn hne
    by_cases hp : (j - 1) / 2 = i
    · rw [hp, swapped_i]
      by_cases hjc : j = c
      · rw [hjc, swapped_c]
        exact less.le
      · rw [other (by omega) hjc]
        exact least j hj (by omega)
    · rw [other hp hne]
      by_cases hji : j = i
      · subst hji
        rw [swapped_i]
        exact h.grand c (by omega) (by omega) (by omega) h1 hn
      · rw [other hji (by omega)]
        exact h.order j h1 hj hn hp
  case grand =>
    intro j h1 hj hp hc hn
    have parent : (c - 1) / 2 = i := by omega
    rw [parent, swapped_i, other (by omega) (by omega), ← hp]
    exact h.order j h1 hj (by omega) (by omega)

/-- R94: sift-down restores heap order where the bound on the rounds is enough. -/
theorem Sinking.siftDownLoop {nf : Vector Freq 511} {hsize n : Nat} (hs : hsize ≤ 256) (fuel : Nat) :
    ∀ {i : Nat} {heap : Vector Handle 256}, Sinking nf hsize n i heap → hsize < (i + 1) * 2 ^ (fuel + 1) →
      Machine.orderedFrom nf hsize n (siftDownLoop nf hsize fuel i heap) := by
  induction fuel with
  | zero => exact fun h hf => h.orderedFrom fun hi => absurd hf (by omega)
  | succ fuel ih =>
    intro i heap h hf
    rw [siftDownLoop_succ]
    split
    next hi => exact h.orderedFrom fun hi' => absurd hi (by omega)
    next hi =>
      split
      next less =>
        refine ih (h.swap hs (by omega) less) (hf.trans_le ?_)
        rw [pow_succ' 2 (fuel + 1), ← mul_assoc]
        refine Nat.mul_le_mul_right _ ?_
        have := smallerChild_cases nf hsize heap i
        omega
      next more => exact h.orderedFrom fun _ => Nat.not_lt.1 more

/-- R94: `sift_down(n)` extends heap order from the slots after `n` to slot `n`. -/
theorem orderedFrom_siftDown {nf : Vector Freq 511} {hsize n : Nat} {heap : Vector Handle 256} (hs : hsize ≤ 256)
    (h : orderedFrom nf hsize (n + 1) heap) : orderedFrom nf hsize n (siftDown nf hsize n heap) := by
  have start : Sinking nf hsize n n heap :=
    ⟨fun j h1 hj hn hne => h j h1 hj (by omega), fun j h1 hj hp h1' hn => absurd hn (by omega)⟩
  exact start.siftDownLoop hs _ (by simp only [SIFT_ROUNDS]; omega)

/-- R98: the sift-downs of heapify give heap order. -/
theorem heapOrdered_heapifyFrom (nf : Vector Freq 511) (n : Nat) :
    ∀ {heap : Vector Handle 256}, orderedFrom nf 256 n heap → heapOrdered nf 256 (heapifyFrom nf n heap) := by
  induction n with
  | zero => exact orderedFrom_zero.1
  | succ n ih => exact fun h => ih (orderedFrom_siftDown (Nat.le_refl 256) h)

/-- Heap order, except that slot `i` may be below its parent: what a round of sift-up keeps. -/
structure Rising (nf : Vector Freq 511) (hsize i : Nat) (heap : Vector Handle 256) : Prop where
  order : ∀ j, 1 ≤ j → j < hsize → j ≠ i → slotFreq nf heap ((j - 1) / 2) ≤ slotFreq nf heap j
  grand : ∀ j, 1 ≤ j → j < hsize → (j - 1) / 2 = i → 1 ≤ i → slotFreq nf heap ((i - 1) / 2) ≤ slotFreq nf heap j

/-- Slot `i` is not below its parent: there is heap order. -/
theorem Rising.heapOrdered {nf : Vector Freq 511} {hsize i : Nat} {heap : Vector Handle 256}
    (h : Rising nf hsize i heap) (large : 1 ≤ i → slotFreq nf heap ((i - 1) / 2) ≤ slotFreq nf heap i) :
    heapOrdered nf hsize heap := by
  intro j h1 hj
  by_cases e : j = i
  · subst e
    exact large h1
  · exact h.order j h1 hj e

/-- R96: a swap with the parent moves the exception up to the parent's slot. -/
theorem Rising.swap {nf : Vector Freq 511} {hsize i : Nat} {heap : Vector Handle 256} (hs : hsize ≤ 256)
    (h : Rising nf hsize i heap) (h1 : 1 ≤ i) (hi : i < hsize)
    (less : slotFreq nf heap i < slotFreq nf heap ((i - 1) / 2)) :
    Rising nf hsize ((i - 1) / 2) (swapSlots heap i ((i - 1) / 2)) := by
  obtain ⟨p, hp⟩ : ∃ p, (i - 1) / 2 = p := ⟨_, rfl⟩
  rw [hp] at less ⊢
  have read := slotFreq_swapSlots nf heap (i := i) (j := p) (by omega) (by omega)
  have swapped_i : slotFreq nf (swapSlots heap i p) i = slotFreq nf heap p := by
    rw [read, if_neg (by omega), if_pos rfl]
  have swapped_p : slotFreq nf (swapSlots heap i p) p = slotFreq nf heap i := by rw [read, if_pos rfl]
  have other {k : Nat} (hi : k ≠ i) (hp : k ≠ p) : slotFreq nf (swapSlots heap i p) k = slotFreq nf heap k := by
    rw [read, if_neg hp, if_neg hi]
  constructor
  case order =>
    intro j h1' hj hne
    by_cases hji : j = i
    · rw [hji, hp, swapped_p, swapped_i]
      exact less.le
    rw [other hji hne]
    by_cases hpi : (j - 1) / 2 = i
    · rw [hpi, swapped_i, ← hp]
      exact h.grand j h1' hj hpi h1
    by_cases hpp : (j - 1) / 2 = p
    · rw [hpp, swapped_p]
      exact less.le.trans (hpp ▸ h.order j h1' hj hji)
    · rw [other hpi hpp]
      exact h.order j h1' hj hji
  case grand =>
    intro j h1' hj hjp hp1
    have above : slotFreq nf heap ((p - 1) / 2) ≤ slotFreq nf heap p := h.order p hp1 (by omega) (by omega)
    rw [other (by omega) (by omega)]
    by_cases hji : j = i
    · rw [hji, swapped_i]
      exact above
    · rw [other hji (by omega)]
      exact above.trans (hjp ▸ h.order j h1' hj hji)

/-- R96: sift-up restores heap order where the bound on the rounds is enough. -/
theorem Rising.siftUpLoop {nf : Vector Freq 511} {hsize : Nat} (hs : hsize ≤ 256) (fuel : Nat) :
    ∀ {i : Nat} {heap : Vector Handle 256}, Rising nf hsize i heap → i < hsize → i < 2 ^ fuel →
      Machine.heapOrdered nf hsize (siftUpLoop nf fuel i heap) := by
  induction fuel with
  | zero => exact fun h _ hf => h.heapOrdered fun h1 => absurd hf (by omega)
  | succ fuel ih =>
    intro i heap h hi hf
    rw [siftUpLoop_succ]
    split
    next h0 => exact h.heapOrdered fun h1 => absurd h0 (by omega)
    next h0 =>
      split
      next less => exact ih (h.swap hs (by omega) hi less) (by omega) (by omega)
      next more => exact h.heapOrdered fun _ => Nat.not_lt.1 more

/-- R93: slot 0 is of minimum frequency. -/
theorem heapOrdered_min {nf : Vector Freq 511} {hsize : Nat} {heap : Vector Handle 256}
    (h : heapOrdered nf hsize heap) (j : Nat) (hj : j < hsize) : slotFreq nf heap 0 ≤ slotFreq nf heap j := by
  induction j using Nat.strong_induction_on with
  | _ j ih =>
    by_cases h0 : j = 0
    · rw [h0]
    · exact (ih ((j - 1) / 2) (by omega) (by omega)).trans (h j (by omega) hj)

end Sys2Proof.Machine

/-! SUPPORT. Heapify, extract-min and insert (41_tree_builder.md R95, R97, R98): what they do to the handles of the
heap, and that they keep heap order (R103). -/

namespace Sys2Proof.Machine

/-! ## Heapify (R98) -/

/-- R98: the heap of the 256 leaves is in order, and holds each of them. -/
theorem heapify_spec (s : State) :
    heapOrdered s.NFREQ 256 (heapify s).HEAP ∧ (slots (heapify s).HEAP 256).Perm (slots seedHeap 256) := by
  have leaves : orderedFrom s.NFREQ 256 128 seedHeap := fun j h1 hj hn => absurd hn (by omega)
  simp only [heapify_fields, Config.ALPHABET, Nat.reduceDiv]
  exact ⟨heapOrdered_heapifyFrom _ _ leaves, (rearranged_heapifyFrom _ _ _).handles⟩

/-! ## Extract-min (R95) -/

/-- R95: the last handle in slot 0, and the others without it, are the handles but the one of slot 0. -/
theorem slots_writeAt_zero_last (heap : Vector Handle 256) {n : Nat} (hn : n < 256) :
    (readAt heap 0 :: slots (writeAt heap 0 (readAt heap n)) n).Perm (slots heap (n + 1)) := by
  cases n with
  | zero => simp [slots]
  | succ m =>
    have tail : slots (writeAt heap 0 (readAt heap (m + 1))) (m + 1) =
        readAt heap (m + 1) :: (List.range m).map fun j => readAt heap (j + 1) := by
      simp only [slots, List.range_succ_eq_map, List.map_cons, List.map_map, Function.comp_def]
      congr 1
      · exact readAt_writeAt_same _ _ (by omega)
      · exact List.map_congr_left fun j _ => readAt_writeAt_other _ _ (by omega)
    have whole : slots heap (m + 1 + 1) =
        readAt heap 0 :: ((List.range m).map (fun j => readAt heap (j + 1)) ++ [readAt heap (m + 1)]) := by
      rw [slots_succ]
      simp only [slots, List.range_succ_eq_map, List.map_cons, List.map_map, Function.comp_def, List.cons_append]
    rw [tail, whole]
    exact (List.perm_append_singleton _ _).symm.cons _

/-- R95: what extract-min does to a heap of `n + 1` handles. -/
theorem extractMin_spec {s : State} {n : Nat} (hs : s.HSIZE.toNat = n + 1) (hn : n < 256) :
    (extractMin s).2.HSIZE.toNat = n ∧
    (readAt s.HEAP 0 :: heapHandles (extractMin s).2).Perm (heapHandles s) ∧
    (∀ j, n ≤ j → readAt (extractMin s).2.HEAP j = readAt s.HEAP j) ∧
    (heapOrdered s.NFREQ s.HSIZE.toNat s.HEAP → heapOrdered s.NFREQ n (extractMin s).2.HEAP) := by
  have size : (s.HSIZE - 1#9).toNat = n := by bv_omega
  have size' : (extractMin s).2.HSIZE.toNat = n := by simp [size]
  have moved : (extractMin s).2.HEAP =
      if 0 < n then siftDown s.NFREQ n 0 (writeAt s.HEAP 0 (readAt s.HEAP n))
      else writeAt s.HEAP 0 (readAt s.HEAP n) := by simp [size]
  have sifted : Rearranged n (writeAt s.HEAP 0 (readAt s.HEAP n)) (extractMin s).2.HEAP := by
    rw [moved]
    split
    · exact rearranged_siftDownLoop s.NFREQ hn.le _ 0 _
    · exact .refl n _
  refine ⟨size', ?_, fun j hj => ?_, fun order => ?_⟩
  · rw [heapHandles_eq_slots, heapHandles_eq_slots, size', hs]
    exact (sifted.handles.cons _).trans (slots_writeAt_zero_last s.HEAP hn)
  · rw [sifted.above j hj]
    by_cases h0 : j = 0
    · obtain rfl : n = 0 := by omega
      rw [h0, writeAt_readAt]
    · exact readAt_writeAt_other _ _ (Ne.symm h0)
  · rw [moved]
    split
    next h0 =>
      refine orderedFrom_zero.1 (orderedFrom_siftDown hn.le fun j h1 hj hp => ?_)
      have same {k : Nat} (hk : k ≠ 0) :
          slotFreq s.NFREQ (writeAt s.HEAP 0 (readAt s.HEAP n)) k = slotFreq s.NFREQ s.HEAP k := by
        simp only [slotFreq, readAt_writeAt_other _ _ (Ne.symm hk)]
      rw [same (by omega), same (by omega)]
      exact order j h1 (by omega)
    next h0 => exact fun j h1 hj => absurd hj (by omega)

/-- R93: the handle of slot 0 is of minimum frequency. -/
theorem nfreq_top_le {s : State} (order : heapOrdered s.NFREQ s.HSIZE.toNat s.HEAP) {h : Handle}
    (hh : h ∈ heapHandles s) : (s.nfreq (readAt s.HEAP 0)).toNat ≤ (s.nfreq h).toNat := by
  obtain ⟨j, hj, rfl⟩ := mem_slots.1 hh
  exact heapOrdered_min order j hj

/-- Settles O23: the order gives the minimum, and the sift-down moves only the handles left. -/
theorem extractMinTakesMinimum : Obligations.ExtractMinTakesMinimum := by
  intro s h1 h256 order
  obtain ⟨n, hn⟩ : ∃ n, s.HSIZE.toNat = n + 1 := ⟨s.HSIZE.toNat - 1, by omega⟩
  obtain ⟨size, perm, above, _⟩ := extractMin_spec hn (by omega)
  refine ⟨rfl, fun h => nfreq_top_le order, ?_, perm, fun j hj => above j ?_, rfl⟩ <;> omega

/-! ## Insert (R97) -/

/-- R97: what insert does to a heap of at most 255 handles. -/
theorem insertNode_spec {s : State} (x : Handle) (hs : s.HSIZE.toNat ≤ 255) :
    (insertNode x s).HSIZE.toNat = s.HSIZE.toNat + 1 ∧
    (heapHandles (insertNode x s)).Perm (x :: heapHandles s) ∧
    (∀ j, s.HSIZE.toNat < j → readAt (insertNode x s).HEAP j = readAt s.HEAP j) ∧
    (heapOrdered s.NFREQ s.HSIZE.toNat s.HEAP →
      heapOrdered s.NFREQ (s.HSIZE.toNat + 1) (insertNode x s).HEAP) := by
  have size : (insertNode x s).HSIZE.toNat = s.HSIZE.toNat + 1 := by
    simp only [insertNode_fields]
    bv_omega
  have sifted : Rearranged (s.HSIZE.toNat + 1) (writeAt s.HEAP s.HSIZE.toNat x) (insertNode x s).HEAP :=
    rearranged_siftUpLoop s.NFREQ (by omega) _ _ _ (by omega)
  refine ⟨size, ?_, fun j hj => ?_, fun order => ?_⟩
  · rw [heapHandles_eq_slots, heapHandles_eq_slots, size]
    refine sifted.handles.trans ?_
    rw [slots_succ, slots_writeAt (Nat.le_refl _), readAt_writeAt_same _ _ (by omega)]
    exact List.perm_append_singleton x _
  · rw [sifted.above j (by omega), readAt_writeAt_other _ _ (by omega)]
  · have same {k : Nat} (hk : k ≠ s.HSIZE.toNat) :
        slotFreq s.NFREQ (writeAt s.HEAP s.HSIZE.toNat x) k = slotFreq s.NFREQ s.HEAP k := by
      simp only [slotFreq, readAt_writeAt_other _ _ (Ne.symm hk)]
    have start : Rising s.NFREQ (s.HSIZE.toNat + 1) s.HSIZE.toNat (writeAt s.HEAP s.HSIZE.toNat x) := by
      refine ⟨fun j h1 hj hne => ?_, fun j h1 hj hp => absurd hp (by omega)⟩
      rw [same (by omega), same hne]
      exact order j h1 (by omega)
    exact start.siftUpLoop (by omega) _ (by omega) (by simp only [SIFT_ROUNDS]; omega)

/-- Settles O24: the sift-up moves the new handle and those of the heap only. -/
theorem insertAddsHandle : Obligations.InsertAddsHandle := by
  intro s x hs
  obtain ⟨size, perm, above, _⟩ := insertNode_spec x hs
  exact ⟨size, perm, above, rfl⟩

/-- Settles O22: each operation ends in a sift from the one slot it puts out of order. -/
theorem heapOrderIsKept : Obligations.HeapOrderIsKept := by
  refine ⟨fun s => (heapify_spec s).1, fun s h1 h256 order => ?_, fun s x h255 order => ?_⟩
  · obtain ⟨n, hn⟩ : ∃ n, s.HSIZE.toNat = n + 1 := ⟨s.HSIZE.toNat - 1, by omega⟩
    obtain ⟨size, _, _, kept⟩ := extractMin_spec hn (by omega)
    rw [size]
    exact kept order
  · obtain ⟨size, _, _, kept⟩ := insertNode_spec x h255
    rw [size]
    exact kept order

end Sys2Proof.Machine

/-! SUPPORT. The merges of BUILD (41_tree_builder.md R99, R104): after `k` of them the heap holds the roots of a forest
over the 256 leaves, in heap order, and the frequencies of the roots sum to those of the leaves. -/

namespace Sys2Proof.Machine

/-! ## The two extractions of a merge -/

/-- R95, R99: a merge extracts two handles of the heap, no other handle is smaller, and the rest stays in heap order. -/
theorem afterExtracts_spec {s : State} {n : Nat} (hs : s.HSIZE.toNat = n + 2) (hn : n < 255)
    (order : heapOrdered s.NFREQ s.HSIZE.toNat s.HEAP) :
    (afterExtracts s).HSIZE.toNat = n ∧
    ((extractedPair s).1 :: (extractedPair s).2 :: heapHandles (afterExtracts s)).Perm (heapHandles s) ∧
    heapOrdered s.NFREQ n (afterExtracts s).HEAP ∧
    (s.nfreq (extractedPair s).1).toNat ≤ (s.nfreq (extractedPair s).2).toNat ∧
    ∀ h, h ∈ heapHandles (afterExtracts s) → (s.nfreq (extractedPair s).2).toNat ≤ (s.nfreq h).toNat := by
  obtain ⟨size1, perm1, _, kept1⟩ := extractMin_spec (n := n + 1) hs (by omega)
  obtain ⟨size2, perm2, _, kept2⟩ := extractMin_spec (n := n) size1 (by omega)
  have order1 : heapOrdered (extractMin s).2.NFREQ (extractMin s).2.HSIZE.toNat (extractMin s).2.HEAP := by
    rw [size1]
    exact kept1 order
  refine ⟨size2, (perm2.cons _).trans perm1, kept2 order1, ?_, fun h hh => ?_⟩
  · exact nfreq_top_le order (perm1.subset (List.mem_cons_of_mem _ (perm2.subset List.mem_cons_self)))
  · exact nfreq_top_le order1 (perm2.subset (List.mem_cons_of_mem _ hh))

/-! ## The merged state -/

/-- R99: the extracted pair linked under node `256 + k`, before that node goes into the heap. -/
def linked (k : Nat) (s : State) : State :=
  { afterExtracts s with
    NFREQ := writeAt s.NFREQ (256 + k) (s.nfreq (extractedPair s).1 + s.nfreq (extractedPair s).2)
    NLEFT := writeAt s.NLEFT k (extractedPair s).1
    NRIGHT := writeAt s.NRIGHT k (extractedPair s).2
    MCOUNT := BitVec.ofNat 9 (k + 1) }

/-- R99: what merge `k` leaves where its sum fits. -/
def merged (k : Nat) (s : State) : State := linkNode k (extractedPair s).1 (extractedPair s).2 (afterExtracts s)

/-- R99: the sum of the two extracted frequencies, as a number. -/
def pairSum (s : State) : Nat := (s.nfreq (extractedPair s).1).toNat + (s.nfreq (extractedPair s).2).toNat

theorem merge_cases (k : Nat) (s : State) :
    (pairSum s ≤ 2 ^ 32 - 1 ∧ merge k s = (merged k s, false)) ∨
    (2 ^ 32 - 1 < pairSum s ∧
      merge k s = (raiseFault (afterExtracts s) .weightOverflow (BitVec.ofNat 16 k), true)) := by
  by_cases h : pairSum s ≤ 2 ^ 32 - 1
  · exact .inl ⟨h, merge_of_fits h⟩
  · exact .inr ⟨Nat.lt_of_not_le h, merge_of_overflow (Nat.lt_of_not_le h)⟩

/-- R101: one merge, then the others. -/
theorem mergeFrom_succ (n k : Nat) (s : State) :
    mergeFrom (n + 1) k s = if (merge k s).2 then ((merge k s).1, true) else mergeFrom n (k + 1) (merge k s).1 := rfl

theorem mergeFrom_succ_of_fits {n k : Nat} {s : State} (h : pairSum s ≤ 2 ^ 32 - 1) :
    mergeFrom (n + 1) k s = mergeFrom n (k + 1) (merged k s) := by
  rw [mergeFrom_succ, merge_of_fits h]
  rfl

/-- R101: merges of which none faults. -/
theorem mergeFrom_succ_completes {n k : Nat} {s u : State} (h : mergeFrom (n + 1) k s = (u, false)) :
    pairSum s ≤ 2 ^ 32 - 1 ∧ mergeFrom n (k + 1) (merged k s) = (u, false) := by
  rw [mergeFrom_succ] at h
  obtain ⟨fits, e⟩ | ⟨_, e⟩ := merge_cases k s <;> rw [e] at h
  · exact ⟨fits, h⟩
  · cases h

/-- The handle of the node merge `k` makes (R91). -/
theorem toNat_newNode {k : Nat} (hk : k < 255) : (BitVec.ofNat 9 (256 + k)).toNat = 256 + k := by
  rw [BitVec.toNat_ofNat]
  omega

theorem merged_eq_insertNode (k : Nat) (s : State) : merged k s = insertNode (BitVec.ofNat 9 (256 + k)) (linked k s) :=
  rfl

theorem merged_fields (k : Nat) (s : State) :
    (merged k s).NFREQ = writeAt s.NFREQ (256 + k) (s.nfreq (extractedPair s).1 + s.nfreq (extractedPair s).2) ∧
    (merged k s).NLEFT = writeAt s.NLEFT k (extractedPair s).1 ∧
    (merged k s).NRIGHT = writeAt s.NRIGHT k (extractedPair s).2 ∧
    (merged k s).MCOUNT = BitVec.ofNat 9 (k + 1) := ⟨rfl, rfl, rfl, rfl⟩

/-- R99: the frequencies after the merge. -/
theorem nfreq_merged {k : Nat} {s : State} (hk : k < 255) (fits : pairSum s ≤ 2 ^ 32 - 1) (h : Handle) :
    ((merged k s).nfreq h).toNat = if h.toNat = 256 + k then pairSum s else (s.nfreq h).toNat := by
  obtain ⟨nf, _⟩ := merged_fields k s
  rw [State.nfreq, nf, readAt_writeAt]
  by_cases e : h.toNat = 256 + k
  · rw [if_pos ⟨e.symm, by omega⟩, if_pos e]
    exact BitVec.toNat_add_of_lt (Nat.lt_of_le_of_lt fits (by decide))
  · rw [if_neg (fun c => e c.1.symm), if_neg e]
    rfl

/-- R99: the new node's children are the two extracted handles, and the other links stay. -/
theorem isChildOf_merged {k : Nat} (s : State) (hk : k < 255) (h j : Nat) (bit : Bool) :
    isChildOf (merged k s) h j bit ↔
      if j = k then (if bit then (extractedPair s).2 else (extractedPair s).1).toNat = h else isChildOf s h j bit := by
  obtain ⟨_, nl, nr, _⟩ := merged_fields k s
  simp only [isChildOf, nl, nr, readAt_writeAt, hk, and_true, @eq_comm _ k j]
  by_cases e : j = k <;> simp only [e, if_true, if_false]

/-- Two arrays of frequencies agree on the nodes below `n`. -/
def sameBelow (n : Nat) (nf nf' : Vector Freq 511) : Prop := ∀ i, i < n → readAt nf i = readAt nf' i

section
variable {nf nf' : Vector Freq 511} {n : Nat} (same : sameBelow n nf nf')
include same

/-- The frequency of a slot depends on the frequencies of the nodes in the heap only. -/
theorem slotFreq_congr {heap : Vector Handle 256} (below : heapBelow n heap) (j : Nat) :
    slotFreq nf heap j = slotFreq nf' heap j := by
  rw [slotFreq, slotFreq, same _ (below j)]

/-- So does heap order. -/
theorem heapOrdered_congr {heap : Vector Handle 256} (below : heapBelow n heap) {hsize : Nat}
    (h : heapOrdered nf hsize heap) : heapOrdered nf' hsize heap := by
  intro j h1 hj
  rw [← slotFreq_congr same below, ← slotFreq_congr same below]
  exact h j h1 hj

end

/-- R97, R99: the heap after the merge holds the new node and the handles left, in heap order. -/
theorem merged_heap {k n : Nat} {s : State} (hs : s.HSIZE.toNat = n + 2) (hn : n < 255) (hk : k < 255)
    (below : heapBelow (256 + k) s.HEAP) (order : heapOrdered s.NFREQ s.HSIZE.toNat s.HEAP) :
    (merged k s).HSIZE.toNat = n + 1 ∧
    (heapHandles (merged k s)).Perm (BitVec.ofNat 9 (256 + k) :: heapHandles (afterExtracts s)) ∧
    heapBelow (256 + (k + 1)) (merged k s).HEAP ∧
    heapOrdered (merged k s).NFREQ (n + 1) (merged k s).HEAP := by
  obtain ⟨size, _, kept, _⟩ := afterExtracts_spec hs hn order
  obtain ⟨_, _, below'⟩ := extractedPair_below below
  have size0 : (linked k s).HSIZE.toNat = n := size
  obtain ⟨size', perm, _, kept'⟩ := insertNode_spec (s := linked k s) (BitVec.ofNat 9 (256 + k)) (by omega)
  have unwritten : sameBelow (256 + k) s.NFREQ (linked k s).NFREQ := fun i hi =>
    (readAt_writeAt_other s.NFREQ _ (by omega)).symm
  rw [size0] at size' kept'
  rw [merged_eq_insertNode]
  refine ⟨size', perm, ?_, kept' (heapOrdered_congr unwritten below' kept)⟩
  simp only [insertNode_fields]
  exact heapBelow_siftUpLoop _ _ _
    (heapBelow_writeAt (heapBelow_mono below' (by omega)) _ (by rw [toNat_newNode hk]; omega))

/-! ## The frequencies in the heap -/

/-- The frequencies of the handles in the heap, slot 0 first. -/
def weights (s : State) : List Nat := (heapHandles s).map fun h => (s.nfreq h).toNat

/-- R99: the merge takes the two least frequencies out of the heap. -/
theorem weights_perm_extracted {s : State} {n : Nat} (hs : s.HSIZE.toNat = n + 2) (hn : n < 255)
    (order : heapOrdered s.NFREQ s.HSIZE.toNat s.HEAP) :
    (weights s).Perm
      ((s.nfreq (extractedPair s).1).toNat :: (s.nfreq (extractedPair s).2).toNat :: weights (afterExtracts s)) := by
  obtain ⟨_, perm, _⟩ := afterExtracts_spec hs hn order
  exact (perm.map fun h => (s.nfreq h).toNat).symm

/-- R99: the merge puts their sum back. -/
theorem weights_perm_merged {k n : Nat} {s : State} (hs : s.HSIZE.toNat = n + 2) (hn : n < 255) (hk : k < 255)
    (below : heapBelow (256 + k) s.HEAP) (order : heapOrdered s.NFREQ s.HSIZE.toNat s.HEAP)
    (fits : pairSum s ≤ 2 ^ 32 - 1) : (weights (merged k s)).Perm (pairSum s :: weights (afterExtracts s)) := by
  obtain ⟨_, perm, _⟩ := merged_heap hs hn hk below order
  obtain ⟨_, _, below'⟩ := extractedPair_below below
  refine (perm.map _).trans (List.Perm.of_eq ?_)
  rw [List.map_cons, nfreq_merged hk fits, if_pos (toNat_newNode hk)]
  refine congrArg _ (List.map_congr_left fun h hh => ?_)
  obtain ⟨j, _, rfl⟩ := mem_slots.1 hh
  rw [nfreq_merged hk fits, if_neg (below' j).ne]
  rfl

/-! ## The forest after `k` merges -/

/-- What holds after `k` merges that start from the counts of `s0`: the heap holds the roots of the subtrees built so
far, each once and in heap order, every other node made so far has one parent, and the frequencies are sums (R104). -/
structure Forest (s0 : State) (k : Nat) (s : State) : Prop where
  size : s.HSIZE.toNat = 256 - k
  below : heapBelow (256 + k) s.HEAP
  order : heapOrdered s.NFREQ s.HSIZE.toNat s.HEAP
  nodup : (heapHandles s).Nodup
  live : ∀ h : Handle, h ∈ heapHandles s ↔ h.toNat < 256 + k ∧ ∀ j bit, j < k → ¬ isChildOf s h.toNat j bit
  older : ∀ h j bit, j < k → isChildOf s h j bit → h < 256 + j
  parent : ∀ h j bit j' bit', j < k → j' < k → isChildOf s h j bit → isChildOf s h j' bit' → j' = j ∧ bit' = bit
  sums : ∀ j, j < k → (readAt s.NFREQ (256 + j)).toNat =
    (s.nfreq (readAt s.NLEFT j)).toNat + (s.nfreq (readAt s.NRIGHT j)).toNat
  leaves : ∀ b, b < 256 → (readAt s.NFREQ b).toNat = flooredFreq s0 b
  total : (weights s).sum = flooredSum s0
  count : 1 ≤ k → s.MCOUNT.toNat = k

/-- R92: the leaf frequencies after the floor step. -/
theorem readAt_startBuild_leaf (s : State) {b : Nat} (hb : b < 256) :
    (readAt (startBuild s).NFREQ b).toNat = flooredFreq s b := by
  simp only [startBuild, heapify_fields, readAt_floorStep_leaf _ hb, flooredFreq]
  split <;> rfl

/-- R98: the heap before the first merge holds the 256 leaves. -/
theorem heapHandles_startBuild (s : State) :
    (heapHandles (startBuild s)).Perm ((List.range 256).map (BitVec.ofNat 9)) := by
  obtain ⟨_, leaves⟩ := heapify_spec { s with NFREQ := floorStep s.NFREQ }
  refine leaves.trans (List.Perm.of_eq (List.map_congr_left fun j hj => ?_))
  exact readAt_seedHeap (List.mem_range.1 hj)

/-- R92: their frequencies are the floored counts. -/
theorem weights_startBuild (s : State) : (weights (startBuild s)).Perm ((List.range 256).map (flooredFreq s)) := by
  refine ((heapHandles_startBuild s).map _).trans (List.Perm.of_eq ?_)
  rw [List.map_map]
  refine List.map_congr_left fun b hb => ?_
  have hb := List.mem_range.1 hb
  have e : (BitVec.ofNat 9 b).toNat = b := by
    rw [BitVec.toNat_ofNat]
    omega
  simp only [Function.comp_apply, State.nfreq, e, readAt_startBuild_leaf s hb]

/-- R98, R104: before the first merge every leaf is a root. -/
theorem forest_startBuild (s : State) : Forest s 0 (startBuild s) where
  size := rfl
  below := by
    simp only [startBuild, heapify_fields]
    exact heapBelow_heapifyFrom _ _ heapBelow_seedHeap
  order := (heapify_spec { s with NFREQ := floorStep s.NFREQ }).1
  nodup := by
    refine (heapHandles_startBuild s).nodup_iff.2 (List.nodup_range.map_on fun i hi j hj e => ?_)
    have := congrArg BitVec.toNat e
    simp only [BitVec.toNat_ofNat, List.mem_range] at this hi hj
    omega
  live h := by
    rw [(heapHandles_startBuild s).mem_iff, List.mem_map]
    constructor
    · rintro ⟨b, hb, rfl⟩
      refine ⟨?_, nofun⟩
      rw [BitVec.toNat_ofNat]
      have := List.mem_range.1 hb
      omega
    · exact fun ⟨hlt, _⟩ => ⟨h.toNat, List.mem_range.2 hlt, BitVec.ofNat_toNat 9 h⟩
  older := nofun
  parent := nofun
  sums := nofun
  leaves _ := readAt_startBuild_leaf s
  total := (weights_startBuild s).sum_eq
  count := nofun

section
variable {s0 s : State} {k : Nat}

/-- R99: there are two roots left to merge. -/
theorem Forest.size_succ (h : Forest s0 k s) (hk : k < 255) : s.HSIZE.toNat = 254 - k + 2 := by
  rw [h.size]
  omega

/-- R106: the sum of a merge is a partial sum of the counts. -/
theorem Forest.pairSum_le (h : Forest s0 k s) (hk : k < 255) : pairSum s ≤ flooredSum s0 := by
  have sum := (weights_perm_extracted (h.size_succ hk) (by omega) h.order).sum_eq
  rw [h.total, List.sum_cons, List.sum_cons, ← Nat.add_assoc] at sum
  exact sum ▸ Nat.le_add_right _ _

/-- R99, R104: the two handles a merge extracts are roots. -/
theorem Forest.pair_live (h : Forest s0 k s) (hk : k < 255) :
    (extractedPair s).1 ∈ heapHandles s ∧ (extractedPair s).2 ∈ heapHandles s := by
  obtain ⟨_, pair, _⟩ := afterExtracts_spec (h.size_succ hk) (by omega) h.order
  exact ⟨pair.subset List.mem_cons_self, pair.subset (List.mem_cons_of_mem _ List.mem_cons_self)⟩

/-- R99, R104: they are different, and no longer in the heap. -/
theorem Forest.pair_distinct (h : Forest s0 k s) (hk : k < 255) :
    (extractedPair s).1 ≠ (extractedPair s).2 ∧ (extractedPair s).1 ∉ heapHandles (afterExtracts s) ∧
      (extractedPair s).2 ∉ heapHandles (afterExtracts s) ∧ (heapHandles (afterExtracts s)).Nodup := by
  obtain ⟨_, pair, _⟩ := afterExtracts_spec (h.size_succ hk) (by omega) h.order
  simpa only [List.nodup_cons, List.mem_cons, not_or, and_assoc] using pair.nodup_iff.2 h.nodup

/-- R104: after merge `k` node `256 + k` is a root in the place of its two children. -/
theorem Forest.mem_merged (h : Forest s0 k s) (hk : k < 255) (x : Handle) :
    x ∈ heapHandles (merged k s) ↔
      x.toNat = 256 + k ∨ (x ∈ heapHandles s ∧ x ≠ (extractedPair s).1 ∧ x ≠ (extractedPair s).2) := by
  obtain ⟨_, perm, _⟩ := merged_heap (h.size_succ hk) (by omega) hk h.below h.order
  obtain ⟨_, pair, _⟩ := afterExtracts_spec (h.size_succ hk) (by omega) h.order
  obtain ⟨_, ha, hc, _⟩ := h.pair_distinct hk
  have node : x.toNat = 256 + k ↔ x = BitVec.ofNat 9 (256 + k) := by rw [← BitVec.toNat_inj, toNat_newNode hk]
  rw [perm.mem_iff, ← pair.mem_iff, node]
  simp only [List.mem_cons]
  constructor
  · rintro (e | hx)
    · exact .inl e
    · exact .inr ⟨.inr (.inr hx), fun e => ha (e ▸ hx), fun e => hc (e ▸ hx)⟩
  · rintro (e | ⟨e | e | hx, hxa, hxc⟩)
    · exact .inl e
    · exact absurd e hxa
    · exact absurd e hxc
    · exact .inr hx

/-- R104: the roots after a merge are the nodes that are no node's child. -/
theorem Forest.live_merged (h : Forest s0 k s) (hk : k < 255) (x : Handle) :
    x ∈ heapHandles (merged k s) ↔
      x.toNat < 256 + (k + 1) ∧ ∀ j bit, j < k + 1 → ¬ isChildOf (merged k s) x.toNat j bit := by
  obtain ⟨aBelow, cBelow, _⟩ := extractedPair_below h.below
  have childless : (∀ j bit, j < k + 1 → ¬ isChildOf (merged k s) x.toNat j bit) ↔
      (∀ j bit, j < k → ¬ isChildOf s x.toNat j bit) ∧ x ≠ (extractedPair s).1 ∧ x ≠ (extractedPair s).2 := by
    simp only [isChildOf_merged s hk]
    constructor
    · intro hx
      refine ⟨fun j bit hj => ?_, fun e => ?_, fun e => ?_⟩
      · simpa [hj.ne] using hx j bit (by omega)
      · simpa [e] using hx k false (by omega)
      · simpa [e] using hx k true (by omega)
    · rintro ⟨hx, hxa, hxc⟩ j bit hj
      by_cases e : j = k
      · cases bit
        · simpa [e, BitVec.toNat_inj] using hxa.symm
        · simpa [e, BitVec.toNat_inj] using hxc.symm
      · simpa [e] using hx j bit (by omega)
  rw [h.mem_merged hk, h.live, childless]
  constructor
  · rintro (e | ⟨⟨hlt, hx⟩, hxa, hxc⟩)
    · refine ⟨by omega, fun j bit hj hch => ?_, by rintro rfl; omega, by rintro rfl; omega⟩
      have := h.older _ j bit hj hch
      omega
    · exact ⟨by omega, hx, hxa, hxc⟩
  · rintro ⟨hlt, hx, hxa, hxc⟩
    by_cases e : x.toNat = 256 + k
    · exact .inl e
    · exact .inr ⟨⟨by omega, hx⟩, hxa, hxc⟩

/-- R91: a merge makes its node of older ones. -/
theorem Forest.older_merged (h : Forest s0 k s) (hk : k < 255) (x j : Nat) (bit : Bool) (hj : j < k + 1)
    (child : isChildOf (merged k s) x j bit) : x < 256 + j := by
  obtain ⟨aBelow, cBelow, _⟩ := extractedPair_below h.below
  rw [isChildOf_merged s hk] at child
  split at child
  next e =>
    subst e
    cases bit <;> simp at child <;> omega
  next e => exact h.older x j bit (by omega) child

/-- R102: a merge gives a parent to two nodes that had none. -/
theorem Forest.parent_merged (h : Forest s0 k s) (hk : k < 255) (x j : Nat) (bit : Bool) (j' : Nat) (bit' : Bool)
    (hj : j < k + 1) (hj' : j' < k + 1) (child : isChildOf (merged k s) x j bit)
    (child' : isChildOf (merged k s) x j' bit') : j' = j ∧ bit' = bit := by
  obtain ⟨aLive, cLive⟩ := h.pair_live hk
  obtain ⟨distinct, _⟩ := h.pair_distinct hk
  have noParent (side : Bool) (i : Nat) (b : Bool) (hi : i < k)
      (hx : (if side then (extractedPair s).2 else (extractedPair s).1).toNat = x) : ¬ isChildOf s x i b := by
    subst hx
    cases side
    · exact ((h.live _).1 aLive).2 i b hi
    · exact ((h.live _).1 cLive).2 i b hi
  rw [isChildOf_merged s hk] at child child'
  split at child <;> split at child'
  next e e' =>
    refine ⟨e'.trans e.symm, ?_⟩
    have ne := mt BitVec.toNat_inj.1 distinct
    cases bit <;> cases bit' <;> simp at child child' ⊢ <;> omega
  next e e' => exact absurd child' (noParent bit j' bit' (by omega) child)
  next e e' => exact absurd child (noParent bit' j bit (by omega) child')
  next e e' => exact h.parent x j bit j' bit' (by omega) (by omega) child child'

/-- R104: the new node has the sum of its children's frequencies, and no other frequency changes. -/
theorem Forest.sums_merged (h : Forest s0 k s) (hk : k < 255) (fits : pairSum s ≤ 2 ^ 32 - 1) (j : Nat)
    (hj : j < k + 1) : (readAt (merged k s).NFREQ (256 + j)).toNat =
      ((merged k s).nfreq (readAt (merged k s).NLEFT j)).toNat +
        ((merged k s).nfreq (readAt (merged k s).NRIGHT j)).toNat := by
  obtain ⟨aBelow, cBelow, _⟩ := extractedPair_below h.below
  have node : (readAt (merged k s).NFREQ (256 + j)).toNat = ((merged k s).nfreq (BitVec.ofNat 9 (256 + j))).toNat := by
    rw [State.nfreq, toNat_newNode (by omega)]
  obtain ⟨_, nl, nr, _⟩ := merged_fields k s
  simp only [node, nl, nr, readAt_writeAt, hk, and_true, nfreq_merged hk fits, toNat_newNode (show j < 255 by omega)]
  by_cases e : k = j
  · subst e
    rw [if_pos rfl, if_pos rfl, if_pos rfl, if_neg aBelow.ne, if_neg cBelow.ne]
    rfl
  · have hl := h.older _ j false (by omega) rfl
    have hr := h.older _ j true (by omega) rfl
    simp only [Bool.false_eq_true, if_false, if_true] at hl hr
    have sum := h.sums j (by omega)
    simp only [e, if_false, State.nfreq, toNat_newNode (show j < 255 by omega)] at sum ⊢
    rwa [if_neg (by omega), if_neg (by omega), if_neg (by omega)]

/-- R104: a merge that fits makes a forest of a forest. -/
theorem Forest.merged (h : Forest s0 k s) (hk : k < 255) (fits : pairSum s ≤ 2 ^ 32 - 1) :
    Forest s0 (k + 1) (merged k s) := by
  obtain ⟨size, perm, below, order⟩ := merged_heap (h.size_succ hk) (by omega) hk h.below h.order
  obtain ⟨_, pair, _⟩ := afterExtracts_spec (h.size_succ hk) (by omega) h.order
  constructor
  case size =>
    rw [size]
    omega
  case below => exact below
  case order =>
    rw [size]
    exact order
  case nodup =>
    obtain ⟨_, _, _, rest⟩ := h.pair_distinct hk
    refine perm.nodup_iff.2 (List.nodup_cons.2 ⟨fun hx => ?_, rest⟩)
    have live := (h.live _).1 (pair.subset (List.mem_cons_of_mem _ (List.mem_cons_of_mem _ hx)))
    rw [toNat_newNode hk] at live
    omega
  case live => exact h.live_merged hk
  case older => exact h.older_merged hk
  case parent => exact h.parent_merged hk
  case sums => exact h.sums_merged hk fits
  case leaves =>
    intro b hb
    obtain ⟨nf, _⟩ := merged_fields k s
    rw [nf, readAt_writeAt_other _ _ (by omega), h.leaves b hb]
  case total =>
    have before := (weights_perm_extracted (h.size_succ hk) (by omega) h.order).sum_eq
    have after := (weights_perm_merged (h.size_succ hk) (by omega) hk h.below h.order fits).sum_eq
    rw [h.total, List.sum_cons, List.sum_cons] at before
    rw [after, before, List.sum_cons, pairSum, Nat.add_assoc]
  case count =>
    intro _
    obtain ⟨_, _, _, mcount⟩ := merged_fields k s
    rw [mcount, BitVec.toNat_ofNat]
    omega

end

/-- R101, R104: `n` merges without a fault. -/
theorem Forest.mergeFrom {s0 u : State} (n : Nat) : ∀ {k : Nat} {s : State}, Forest s0 k s → k + n ≤ 255 →
    mergeFrom n k s = (u, false) → Forest s0 (k + n) u := by
  induction n with
  | zero =>
    intro k s h _ e
    cases e
    exact h
  | succ n ih =>
    intro k s h hk e
    obtain ⟨fits, e⟩ := mergeFrom_succ_completes e
    rw [show k + (n + 1) = k + 1 + n by omega]
    exact ih (h.merged (by omega) fits) (by omega) e

/-- R106: no merge faults where the counts fit. -/
theorem Forest.mergeFrom_completes {s0 : State} (fits : flooredSum s0 ≤ 2 ^ 32 - 1) (n : Nat) :
    ∀ {k : Nat} {s : State}, Forest s0 k s → k + n ≤ 255 → ∃ u, Machine.mergeFrom n k s = (u, false) := by
  induction n with
  | zero => exact fun _ _ => ⟨_, rfl⟩
  | succ n ih =>
    intro k s h hk
    have pairFits := (h.pairSum_le (by omega)).trans fits
    rw [mergeFrom_succ_of_fits pairFits]
    exact ih (h.merged (by omega) pairFits) (by omega)

/-- Settles O25: the forest after `k` merges. -/
theorem liveNodesStandInHeapOnce : Obligations.LiveNodesStandInHeapOnce := by
  intro s u k hk e
  have forest : Forest s k u := by simpa using (forest_startBuild s).mergeFrom k (by omega) e
  exact ⟨forest.size, forest.nodup, forest.order, forest.live, forest.sums⟩

end Sys2Proof.Machine

/-! SUPPORT. What BUILD leaves (41_tree_builder.md R101, R102): a tree of root 510 where no merge faults. -/

namespace Sys2Proof.Machine

/-- R102: after the last merge node 510 is the one handle in the heap. -/
theorem Forest.top {s0 s : State} (h : Forest s0 255 s) : heapHandles s = [510#9] ∧ readAt s.HEAP 0 = 510#9 := by
  have one : heapHandles s = [readAt s.HEAP 0] := by
    rw [heapHandles_eq_slots, h.size]
    rfl
  have root : (510#9 : Handle) ∈ heapHandles s := by
    refine (h.live _).2 ⟨by decide, fun j bit hj child => ?_⟩
    have := h.older _ j bit hj child
    simp at this
    omega
  rw [one, List.mem_singleton] at root
  exact ⟨one.trans (congrArg (fun x => [x]) root.symm), root.symm⟩

/-- R91: a child is older than its parent. -/
theorem olderChildren.child_lt {s : State} (h : olderChildren s) {x k : Nat} {bit : Bool} (hk : k < 255)
    (child : isChildOf s x k bit) : x < 256 + k := by
  obtain ⟨hl, hr⟩ := h k hk
  cases bit
  · exact child ▸ hl
  · exact child ▸ hr

/-- R91, R102, R104: the links and frequencies after the last merge are those of a tree. -/
theorem Forest.built {s0 s : State} (h : Forest s0 255 s) :
    olderChildren s ∧ oneParent s ∧ sumsOfChildren s := by
  refine ⟨fun k hk => ⟨h.older _ k false hk rfl, h.older _ k true hk rfl⟩, fun x hx => ?_, h.sums⟩
  have value : (BitVec.ofNat 9 x).toNat = x := by
    rw [BitVec.toNat_ofNat]
    omega
  have child : ∃ j bit, j < 255 ∧ isChildOf s x j bit := by
    by_contra none
    have root : BitVec.ofNat 9 x ∈ heapHandles s := by
      rw [h.live, value]
      exact ⟨by omega, fun j bit hj hch => none ⟨j, bit, hj, hch⟩⟩
    rw [h.top.1, List.mem_singleton, ← BitVec.toNat_inj, value] at root
    simp at root
    omega
  obtain ⟨j, bit, hj, hch⟩ := child
  exact ⟨j, bit, hj, hch, fun j' bit' hj' hch' => h.parent x j bit j' bit' hj hj' hch hch'⟩

/-- R101: a BUILD whose merges all fit. -/
theorem buildTree_of_completed {s u : State} (h : mergeFrom 255 0 (startBuild s) = (u, false)) :
    buildTree s = { u with ROOT := readAt u.HEAP 0, PHASE := .built } := by
  obtain ⟨v, hv, _⟩ | ⟨v, hv, e⟩ := buildTree_cases s <;> rw [h] at hv <;> cases hv
  exact e

/-- R101, R160: a BUILD of which a merge faults. -/
theorem buildTree_of_faulted {s u : State} (h : mergeFrom 255 0 (startBuild s) = (u, true)) :
    buildTree s = u ∧ u.PHASE = .fault := by
  obtain ⟨_, _, _, faults⟩ := mergeFrom_frame 255 0 (startBuild s)
  rw [h] at faults
  obtain ⟨v, hv, e⟩ | ⟨v, hv, _⟩ := buildTree_cases s <;> rw [h] at hv <;> cases hv
  exact ⟨e, (faults rfl).1⟩

/-- R101: the merges of a BUILD that ends in phase BUILT did not fault. -/
theorem buildTree_of_built {s : State} (h : (buildTree s).PHASE = .built) :
    ∃ u, mergeFrom 255 0 (startBuild s) = (u, false) ∧ Forest s 255 u ∧
      buildTree s = { u with ROOT := readAt u.HEAP 0, PHASE := .built } := by
  obtain ⟨u, hu, _⟩ | ⟨u, hu, e⟩ := buildTree_cases s
  · obtain ⟨e, fault⟩ := buildTree_of_faulted hu
    rw [e, fault] at h
    cases h
  · exact ⟨u, hu, (forest_startBuild s).mergeFrom 255 (by omega) hu, e⟩

/-- R102, R104: a BUILD that ends in phase BUILT leaves a tree. -/
theorem builtTree_buildTree {s : State} (h : (buildTree s).PHASE = .built) :
    builtTree (buildTree s) ∧ sumsOfChildren (buildTree s) := by
  obtain ⟨u, _, forest, e⟩ := buildTree_of_built h
  obtain ⟨older, parents, sums⟩ := forest.built
  rw [e]
  exact ⟨⟨forest.top.2, older, parents⟩, sums⟩

/-- R106: where the floored counts fit, BUILD ends in phase BUILT. -/
theorem buildTree_completes {s : State} (fits : flooredSum s ≤ 2 ^ 32 - 1) : (buildTree s).PHASE = .built := by
  obtain ⟨u, hu⟩ := (forest_startBuild s).mergeFrom_completes fits 255 (by omega)
  rw [buildTree_of_completed hu]

/-- A state that agrees with another in all but the tree state and the phase. -/
theorem eq_withTree {s t : State} (f : sameButTree s t) (draws : t.DRAWS = s.DRAWS) (busy : t.BUSY = s.BUSY)
    (err : t.ERR = s.ERR) (info : t.ERRINFO = s.ERRINFO) :
    t = { s with NFREQ := t.NFREQ, NLEFT := t.NLEFT, NRIGHT := t.NRIGHT, HEAP := t.HEAP, HSIZE := t.HSIZE,
                 MCOUNT := t.MCOUNT, ROOT := t.ROOT, PHASE := t.PHASE } := by
  cases s
  cases t
  simp_all [sameButTree, sameCodes, sameWriter, sameReader, sameStreams, sameHost]

/-- R64: in phase TRAIN a BUILD runs. -/
theorem exec_build_eq {s : State} (hp : s.PHASE = .train) : exec .build s = .next (buildTree s) :=
  exec_of_ok (i := .build) nofun (by simp [hp]) (by simp [phaseOk, hp])

/-- Settles O26: the forest after 255 merges is one tree, of root 510. -/
theorem buildMakesTheTree : Obligations.BuildMakesTheTree := by
  intro s hp fits
  have phase := buildTree_completes fits
  obtain ⟨u, _, forest, e⟩ := buildTree_of_built phase
  have tree := builtTree_buildTree phase
  obtain ⟨frame, draws⟩ := buildTree_frame s
  obtain ⟨_, busy, err, info⟩ | ⟨fault, _⟩ := buildTree_phase s
  case inr => rw [phase] at fault; cases fault
  have shape := eq_withTree frame draws busy err info
  have total := forest.total
  rw [weights, forest.top.1] at total
  have hsize : (buildTree s).HSIZE = 1#9 := by rw [e]; exact BitVec.eq_of_toNat_eq forest.size
  have mcount : (buildTree s).MCOUNT = 255#9 := by rw [e]; exact BitVec.eq_of_toNat_eq (forest.count (by omega))
  rw [hsize, mcount, tree.1.1, phase] at shape
  refine ⟨_, exec_build_eq hp, shape, ?_, ?_, ?_, tree.1, tree.2, ?_⟩ <;> rw [e]
  · exact forest.top.2
  · simpa [State.nfreq] using total
  · exact forest.leaves
  · exact fun j _ => Nat.le_of_lt_succ (forest.below j)

end Sys2Proof.Machine

/-! SUPPORT. The paths of a built tree (R102): from the root each node is reached on exactly one. -/

namespace Sys2Proof.Machine

/-- R102, R141: a child on the side of a bit. -/
theorem child?_eq_some_iff {s : State} {m h : Handle} {b : Bool} :
    s.child? m b = some h ↔ ∃ k, k < 255 ∧ m.toNat = 256 + k ∧ isChildOf s h.toNat k b := by
  by_cases hi : 256 ≤ m.toNat ∧ m.toNat < 511
  · rw [child?_internal s hi.1 hi.2, Option.some_inj]
    have side : (if b then s.nright m else s.nleft m) = h ↔ isChildOf s h.toNat (m.toNat - 256) b := by
      rw [isChildOf, ← BitVec.toNat_inj]
      cases b <;> rfl
    rw [side]
    constructor
    · exact fun child => ⟨m.toNat - 256, by omega, by omega, child⟩
    · rintro ⟨k, hk, e, child⟩
      rwa [e, Nat.add_sub_cancel_left]
  · have none : s.child? m b = none := by
      simp only [State.child?, isInternal, Config.ALPHABET, Config.NODES, hi, decide_false, Bool.false_eq_true,
        if_false]
    rw [none]
    constructor
    · nofun
    · rintro ⟨k, hk, e, _⟩
      omega

/-- A path with one more edge at its end. -/
theorem follow_concat_eq_some_iff {s : State} {n h : Handle} {p : List Bool} {b : Bool} :
    follow s n (p ++ [b]) = some h ↔ ∃ m, follow s n p = some m ∧ s.child? m b = some h := by
  have edge (m : Handle) : follow s m [b] = s.child? m b := by
    simp only [follow]
    cases s.child? m b <;> rfl
  simp only [follow_append, Option.bind_eq_some_iff, edge]

section
variable {s : State} (tree : builtTree s)
include tree

/-- R102: the root is no node's child. -/
theorem child?_ne_root (m : Handle) (b : Bool) : s.child? m b ≠ some s.ROOT := by
  obtain ⟨root, older, _⟩ := tree
  rw [root, Ne, child?_eq_some_iff]
  rintro ⟨k, hk, _, child⟩
  have : 510 < 256 + k := older.child_lt hk child
  omega

/-- R102: from the root at most one path leads to a node. -/
theorem follow_root_unique (p : List Bool) : ∀ {q : List Bool} {h : Handle},
    follow s s.ROOT p = some h → follow s s.ROOT q = some h → p = q := by
  induction p using List.reverseRecOn with
  | nil =>
    intro q h hp hq
    cases hp
    rcases q.eq_nil_or_concat' with rfl | ⟨q, b, rfl⟩
    · rfl
    · obtain ⟨m, _, hm⟩ := follow_concat_eq_some_iff.1 hq
      exact absurd hm (child?_ne_root tree m b)
  | append_singleton p b ih =>
    intro q h hp hq
    obtain ⟨m, hm, hc⟩ := follow_concat_eq_some_iff.1 hp
    rcases q.eq_nil_or_concat' with rfl | ⟨q, b', rfl⟩
    · cases hq
      exact absurd hc (child?_ne_root tree m b)
    · obtain ⟨m', hm', hc'⟩ := follow_concat_eq_some_iff.1 hq
      obtain ⟨_, older, parents⟩ := tree
      obtain ⟨k, hk, e, child⟩ := child?_eq_some_iff.1 hc
      obtain ⟨k', hk', e', child'⟩ := child?_eq_some_iff.1 hc'
      have younger := older.child_lt hk child
      obtain ⟨_, _, _, _, only⟩ := parents h.toNat (by omega)
      obtain ⟨rfl, rfl⟩ := only k b hk child
      obtain ⟨rfl, rfl⟩ := only k' b' hk' child'
      obtain rfl : m = m' := BitVec.eq_of_toNat_eq (e.trans e'.symm)
      rw [ih hm hm']

/-- R102: from the root a path leads to every node; it ends in the edge from the node's parent, which is younger. -/
theorem exists_follow_root (d : Nat) : ∀ h : Handle, h.toNat + d = 510 → ∃ p, follow s s.ROOT p = some h := by
  induction d using Nat.strong_induction_on with
  | _ d ih =>
    intro h hd
    obtain ⟨root, older, parents⟩ := id tree
    by_cases hroot : h.toNat = 510
    · refine ⟨[], congrArg some (root.trans (BitVec.eq_of_toNat_eq ?_))⟩
      rw [hroot]
      rfl
    · obtain ⟨k, b, hk, child, _⟩ := parents h.toNat (by omega)
      have value := toNat_newNode hk
      have younger := older.child_lt hk child
      obtain ⟨p, hp⟩ := ih (254 - k) (by omega) (BitVec.ofNat 9 (256 + k)) (by omega)
      exact ⟨p ++ [b], follow_concat_eq_some_iff.2 ⟨_, hp, child?_eq_some_iff.2 ⟨k, hk, value, child⟩⟩⟩

/-- R102: every byte has its path. -/
theorem exists_leafPath (b : Byte) : ∃ p, leafPath s p b :=
  exists_follow_root tree (510 - b.toNat) (leafOf b) (by rw [leafOf_toNat]; omega)

/-- R113: no leaf is the root. -/
theorem leafPath_length_pos {p : List Bool} {b : Byte} (h : leafPath s p b) : 1 ≤ p.length := by
  cases p with
  | nil =>
    have root : s.ROOT = leafOf b := Option.some.inj h
    rw [tree.1, ← BitVec.toNat_inj, leafOf_toNat] at root
    simp at root
    omega
  | cons x p => simp

end

end Sys2Proof.Machine

/-! SUPPORT. The walk of ASSIGN on a built tree (42_code_assign.md R110, R111): where it completes, every byte's entry
is the path to its leaf. -/

namespace Sys2Proof.Machine

/-- R111: bit `j` of a code word is edge `j` of its path, and 0 above. -/
theorem getLsbD_codeWord (p : List Bool) : ∀ {j : Nat}, j < 32 → (codeWord p).getLsbD j = p[j]?.getD false := by
  induction p with
  | nil => simp [codeWord]
  | cons b p ih =>
    intro j hj
    cases j with
    | zero => cases b <;> simp [codeWord]
    | succ j =>
      rw [codeWord, BitVec.getLsbD_or, BitVec.getLsbD_shiftLeft, Nat.add_sub_cancel, ih (by omega)]
      cases b <;> simp [hj]

/-- The entry of byte `b` in a table is the path `p` (R111). -/
structure CodeTable.Holds (t : CodeTable) (b : Byte) (p : List Bool) : Prop where
  fits : p.length ≤ 32
  code : readAt t.CODE b.toNat = codeWord p
  len : readAt t.LEN b.toNat = BitVec.ofNat 6 p.length

/-- The entry of byte `b` is the same in both tables. -/
def CodeTable.sameEntry (t t' : CodeTable) (b : Byte) : Prop :=
  readAt t'.CODE b.toNat = readAt t.CODE b.toNat ∧ readAt t'.LEN b.toNat = readAt t.LEN b.toNat

theorem CodeTable.Holds.sameEntry {t t' : CodeTable} {b : Byte} {p : List Bool} (h : t.Holds b p)
    (same : t.sameEntry t' b) : t'.Holds b p :=
  ⟨h.fits, same.1.trans h.code, same.2.trans h.len⟩

/-- R111: a machine with such a table has the path as the byte's code. -/
theorem CodeTable.Holds.codeIs {c : CodeTable} {b : Byte} {p : List Bool} (h : c.Holds b p) {t : State}
    (code : t.CODE = c.CODE) (len : t.LEN = c.LEN) : codeIs t b p := by
  have short := h.fits
  constructor
  · rw [State.len, len, h.len, BitVec.toNat_ofNat]
    omega
  · intro j hj
    rw [State.code, code, h.code, getLsbD_codeWord p hj]

/-- The entry written holds its path. -/
theorem CodeTable.holds_enter (t : CodeTable) (b : Byte) {p : List Bool} (h : p.length ≤ 32) :
    (t.enter (leafOf b) p).Holds b p := by
  have hb := b.isLt
  exact ⟨h, by simp [CodeTable.enter, hb], by simp [CodeTable.enter, hb]⟩

/-- The other entries stay. -/
theorem CodeTable.sameEntry_enter (t : CodeTable) {h : Handle} {b : Byte} (hb : h ≠ leafOf b) (p : List Bool) :
    t.sameEntry (t.enter h p) b := by
  have ne : h.toNat ≠ b.toNat := by rwa [← leafOf_toNat b, Ne, BitVec.toNat_inj]
  exact ⟨readAt_writeAt_other _ _ ne, readAt_writeAt_other _ _ ne⟩

/-- R110: a walk that completes entered its leaf, or completed both subtrees, the left one first. -/
theorem walk_done_cases {s : State} {fuel : Nat} {h : Handle} {path : List Bool} {t t' : CodeTable}
    (e : walk s (fuel + 1) h path t = .done t') :
    (h.toNat < 256 ∧ path.length ≤ 32 ∧ t' = t.enter h path) ∨
    ∃ l r u, 256 ≤ h.toNat ∧ s.child? h false = some l ∧ s.child? h true = some r ∧
      walk s fuel l (path ++ [false]) t = .done u ∧ walk s fuel r (path ++ [true]) u = .done t' := by
  cases hl : isLeaf h
  case true =>
    rw [walk_leaf hl] at e
    split at e
    next => cases e
    next short =>
      cases e
      exact .inl ⟨(isLeaf_iff h).1 hl, Nat.le_of_not_lt short, rfl⟩
  case false =>
    cases hL : s.child? h false with
    | none => simp [walk, hl, hL] at e
    | some l =>
      cases hR : s.child? h true with
      | none => simp [walk, hl, hL, hR] at e
      | some r =>
        rw [walk_internal hl hL hR] at e
        cases hw : walk s fuel l (path ++ [false]) t with
        | done u =>
          rw [hw] at e
          exact .inr ⟨l, r, u, (isLeaf_eq_false_iff h).1 hl, rfl, rfl, hw, e⟩
        | tooLong _ _ | noSuchNode | endless =>
          rw [hw] at e
          cases e

/-- A path that starts with an edge to a child. -/
theorem follow_cons_of_child {s : State} {h l : Handle} {b : Bool} (hc : s.child? h b = some l) (q : List Bool) :
    follow s h (b :: q) = follow s l q := by
  simp only [follow, hc]

/-- R110, R111: a walk that completes enters every leaf below its start with its path, and no other byte. Each path
leads from the root (`path` to the start, then on to the leaf), so the right subtree does not write a byte of the left
one again. -/
theorem walk_done {s : State} (tree : builtTree s) (fuel : Nat) :
    ∀ {h : Handle} {path : List Bool} {t t' : CodeTable}, follow s s.ROOT path = some h →
      walk s fuel h path t = .done t' →
      (∀ b q, follow s h q = some (leafOf b) → t'.Holds b (path ++ q)) ∧
      ∀ b, (∀ q, follow s h q ≠ some (leafOf b)) → t.sameEntry t' b := by
  induction fuel with
  | zero => exact fun _ e => nomatch e
  | succ fuel ih =>
    intro h path t t' start e
    obtain ⟨leaf, short, rfl⟩ | ⟨l, r, u, inner, hL, hR, left, right⟩ := walk_done_cases e
    · constructor
      · intro b q hq
        rw [follow_leaf s leaf] at hq
        split at hq
        next hnil =>
          cases hq
          subst hnil
          rw [List.append_nil]
          exact t.holds_enter b short
        next => cases hq
      · intro b hb
        exact t.sameEntry_enter (fun e => hb [] (congrArg some e)) path
    · have startL := follow_concat_eq_some_iff.2 ⟨h, start, hL⟩
      have startR := follow_concat_eq_some_iff.2 ⟨h, start, hR⟩
      obtain ⟨holdsL, othersL⟩ := ih startL left
      obtain ⟨holdsR, othersR⟩ := ih startR right
      constructor
      · intro b q hq
        cases q with
        | nil =>
          have leaf : h.toNat = b.toNat := by rw [Option.some.inj hq, leafOf_toNat]
          omega
        | cons side q =>
          cases side
          case true =>
            rw [follow_cons_of_child hR] at hq
            simpa using holdsR b q hq
          case false =>
            rw [follow_cons_of_child hL] at hq
            have notRight (q' : List Bool) : follow s r q' ≠ some (leafOf b) := fun hq' => by
              have onLeft : follow s s.ROOT ((path ++ [false]) ++ q) = some (leafOf b) := by
                rw [follow_append, startL]
                exact hq
              have onRight : follow s s.ROOT ((path ++ [true]) ++ q') = some (leafOf b) := by
                rw [follow_append, startR]
                exact hq'
              simpa using follow_root_unique tree _ onLeft onRight
            simpa using (holdsL b q hq).sameEntry (othersR b notRight)
      · intro b hb
        have sameL := othersL b fun q hq => hb (false :: q) (by rwa [follow_cons_of_child hL])
        have sameR := othersR b fun q hq => hb (true :: q) (by rwa [follow_cons_of_child hR])
        exact ⟨sameR.1.trans sameL.1, sameR.2.trans sameL.2⟩

/-- R110: the walk of ASSIGN is the walk from the root, which is no leaf. -/
theorem walkTree_eq_walk {s : State} (hr : s.ROOT = 510#9) (t : CodeTable) :
    walkTree s t = walk s (WALK_DEPTH + 1) s.ROOT [] t := by
  have inner : isLeaf s.ROOT = false := (isLeaf_eq_false_iff _).2 (by rw [hr]; decide)
  simp only [walkTree, walk, inner, Bool.false_eq_true, if_false, List.nil_append]

/-- R110: an ASSIGN that ends in phase ASSIGNED wrote the table of a walk that completed. -/
theorem run_assign_done {s t : State} (h : run .assign s = .next t) (hp : t.PHASE = .assigned) :
    ∃ c, walkTree s (freshTable s.DRAWS) = .done c ∧
      t = { ({ s with DRAWS := s.DRAWS + 1 } : State).withCodeTable c with PHASE := .assigned } := by
  simp only [run] at h
  cases hw : walkTree s (freshTable s.DRAWS) with
  | done c =>
    rw [hw] at h
    cases h
    exact ⟨c, rfl, rfl⟩
  | tooLong leaf c =>
    rw [hw] at h
    cases h
    cases hp
  | noSuchNode | endless =>
    rw [hw] at h
    cases h

/-- R111, R113: an ASSIGN that completes on a built tree leaves every byte's path in the table. -/
theorem codeIs_of_assign {s t : State} (tree : builtTree s) (h : run .assign s = .next t)
    (hp : t.PHASE = .assigned) : sameTree s t ∧ ∀ b p, leafPath s p b → p.length ≤ 32 ∧ codeIs t b p := by
  obtain ⟨c, hw, rfl⟩ := run_assign_done h hp
  rw [walkTree_eq_walk tree.1] at hw
  obtain ⟨holds, _⟩ := walk_done tree _ (path := []) rfl hw
  refine ⟨⟨rfl, rfl, rfl, rfl, rfl, rfl, rfl⟩, fun b p path => ?_⟩
  have entry : c.Holds b p := holds b p path
  exact ⟨entry.fits, entry.codeIs rfl rfl⟩

end Sys2Proof.Machine

/-! SUPPORT. The invariant `CodecInv` (R102, R104, R113) under every command, the retry and the step. -/

namespace Sys2Proof.Machine

/-! ## The invariant under updates of the state -/

/-- A path to a byte's leaf in a state with the same tree. -/
theorem leafPath_of_sameTree {s t : State} (h : sameTree s t) (p : List Bool) (b : Byte) :
    leafPath t p b ↔ leafPath s p b := by
  obtain ⟨_, _, _, _, _, _, root⟩ := id h
  rw [leafPath, leafPath, root, follow_of_sameTree h]

/-- In phases TRAIN and FAULT the invariant says nothing. -/
theorem codecInv_of_noTree {s : State} (h : s.PHASE = .train ∨ s.PHASE = .fault) : CodecInv s := by
  constructor <;> rcases h with h | h <;> simp [h]

/-- The invariant speaks of the tree, the code table and the phase only. -/
theorem CodecInv.of_same {s t : State} (h : CodecInv s) (tree : sameTree s t) (codes : sameCodes s t)
    (phase : t.PHASE = s.PHASE) : CodecInv t := by
  constructor
  · rw [phase]
    obtain ⟨nf, nl, nr, _, _, _, root⟩ := tree
    simpa only [builtTree, sumsOfChildren, olderChildren, oneParent, isChildOf, State.nfreq, nf, nl, nr, root]
      using h.tree
  · rw [phase]
    obtain ⟨code, len⟩ := codes
    simpa only [codesArePaths, codeIs, leafPath_of_sameTree tree, State.code, State.len, code, len] using h.codes

theorem CodecInv.withHost {s : State} (h : CodecInv s) (w : CmdWord) (q : List HostAction) (inp : List Token)
    (out : List Byte) (rd : List (RegAddr × Word32)) :
    CodecInv { s with CUR_CMD := w, HOSTQ := q, IN := inp, OUT := out, HREADS := rd } :=
  h.of_same (sameTree_refl s) (sameCodes_refl s) rfl

theorem CodecInv.retire {s : State} (h : CodecInv s) : CodecInv (retire s) :=
  h.of_same (by simp [sameTree]) (by simp [sameCodes]) (by simp)

/-! ## The commands -/

/-- R121: DOPEN and DSYM leave the tree and the code table alone. -/
theorem run_reader_sameCodec {i : Instr} {s t : State} (hi : i = .dopen ∨ i = .dsym) (h : run i s = .next t) :
    sameTree s t ∧ sameCodes s t := by
  rcases hi with rfl | rfl
  · obtain ⟨_, e⟩ | ⟨b, u, _, hu, e⟩ := run_dopen_eq s <;> rw [e] at h <;> cases h
    · exact ⟨sameTree_refl s, sameCodes_refl s⟩
    · obtain ⟨tree, codes, _⟩ := inRead_frame hu
      exact ⟨tree, codes⟩
  · obtain ⟨_, _, e⟩ | ⟨_, e⟩ := run_dsym_eq s <;> rw [e] at h
    · cases h
      exact ⟨sameTree_refl s, sameCodes_refl s⟩
    · obtain ⟨tree, codes, _⟩ := descend_frame h
      have start : sameTree s (descendStart s) ∧ sameCodes s (descendStart s) := by
        unfold descendStart
        split <;> exact ⟨sameTree_refl s, sameCodes_refl s⟩
      exact ⟨sameTree_trans start.1 tree, sameCodes_trans start.2 codes⟩

/-- R102: BUILD ends in a tree or in phase FAULT. -/
theorem codecInv_buildTree (s : State) : CodecInv (buildTree s) := by
  obtain ⟨built, _⟩ | ⟨fault, _⟩ := buildTree_phase s
  · exact ⟨fun _ => builtTree_buildTree built, fun assigned => by rw [built] at assigned; cases assigned⟩
  · exact codecInv_of_noTree (.inr fault)

/-- R113: ASSIGN keeps the tree and writes its paths, or ends in phase FAULT. -/
theorem CodecInv.run_assign {s t : State} (h : CodecInv s) (hp : s.PHASE = .built) (e : run .assign s = .next t) :
    CodecInv t := by
  obtain ⟨tree, sums⟩ := h.tree (.inl hp)
  obtain ⟨c, rfl⟩ | ⟨c, leaf, rfl⟩ := run_assign_cases e
  · obtain ⟨same, codes⟩ := codeIs_of_assign tree e rfl
    refine ⟨fun _ => ⟨tree, sums⟩, fun _ b => ?_⟩
    obtain ⟨p, path⟩ := exists_leafPath tree b
    obtain ⟨short, code⟩ := codes b p path
    exact ⟨p, (leafPath_of_sameTree same p b).2 path, leafPath_length_pos tree path, short, code⟩
  · exact codecInv_of_noTree (.inr rfl)

/-- Every command keeps the invariant. -/
theorem CodecInv.exec {i : Instr} {s t : State} (h : CodecInv s) (e : exec i s = .next t) : CodecInv t := by
  obtain ⟨_, rfl⟩ | ⟨_, _, rfl⟩ | ⟨_, _, _, rfl⟩ | ⟨hi, _, hok, e⟩ := exec_cases e
  · exact codecInv_of_noTree (.inl rfl)
  · exact h
  · exact codecInv_of_noTree (.inr rfl)
  cases i with
  | clear => exact absurd rfl hi
  | nop =>
    cases e
    exact h
  | train b =>
    obtain rfl | rfl := run_train_cases e
    · exact codecInv_of_noTree (.inr rfl)
    · exact codecInv_of_noTree (.inl (by simpa [phaseOk] using hok))
  | build =>
    cases e
    exact codecInv_buildTree s
  | assign => exact h.run_assign (by simpa [phaseOk] using hok) e
  | enc b =>
    cases e
    obtain ⟨tree, codes, _, ⟨phase, _⟩, _⟩ := writeBits_frame (codeBits s b) s
    exact h.of_same tree codes phase
  | flush =>
    cases e
    exact h.of_same (sameTree_refl s) (sameCodes_refl s) rfl
  | dopen =>
    obtain ⟨tree, codes⟩ := run_reader_sameCodec (.inl rfl) e
    exact h.of_same tree codes (run_reader_frame (.inl rfl) e).1.1
  | dsym =>
    obtain ⟨tree, codes⟩ := run_reader_sameCodec (.inr rfl) e
    exact h.of_same tree codes (run_reader_frame (.inr rfl) e).1.1

/-- So does every word, legal or not, with the retirement of the command. -/
theorem CodecInv.executeWord {w : CmdWord} {s t : State} (h : CodecInv s)
    (e : retireOutcome (executeWord w s) = .next t) : CodecInv t := by
  obtain ⟨u, answer, rfl⟩ := retireOutcome_eq_next e
  refine CodecInv.retire ?_
  unfold Machine.executeWord at answer
  split at answer
  · cases answer
    exact h
  · split at answer
    · cases answer
      exact codecInv_of_noTree (.inr rfl)
    · exact h.exec answer

/-! ## The step -/

/-- So does whatever the core does on an action of the host. -/
theorem CodecInv.hostAct {a : HostAction} {s t : State} (h : CodecInv s) (e : hostAct a s = .next t) : CodecInv t := by
  cases a with
  | write w =>
    simp only [Machine.hostAct, acceptWord] at e
    split at e
    · cases e
      exact h
    · exact (h.withHost w s.HOSTQ s.IN s.OUT s.HREADS).executeWord e
  | push tok =>
    simp only [Machine.hostAct, pushToken] at e
    have pushed := h.withHost s.CUR_CMD s.HOSTQ (s.IN ++ [tok]) s.OUT s.HREADS
    split at e
    · exact pushed.executeWord e
    · cases e
      exact pushed
  | drain n | read a =>
    cases e
    exact h.withHost s.CUR_CMD s.HOSTQ s.IN _ _
  | reset =>
    cases e
    exact codecInv_of_noTree (.inl rfl)

/-- Settles O53: BUILD makes a tree, ASSIGN writes its paths, and no other command touches the two in a phase that has
them. -/
theorem stepKeepsCodecInv : Obligations.StepKeepsCodecInv := by
  intro s t _ h e
  obtain ⟨_, rfl⟩ | ⟨a, rest, _, e⟩ := step_cases e
  · exact h
  · exact (h.withHost s.CUR_CMD rest s.IN s.OUT s.HREADS).hostAct e

end Sys2Proof.Machine

/-! SUPPORT. BUILD reads the 256 counts only (41_tree_builder.md R100, R107): two builds from the same counts go through
the same merges. -/

namespace Sys2Proof.Machine

/-! ## The sifts read the frequencies of the nodes in the heap only -/

section
variable {nf nf' : Vector Freq 511} {n : Nat} (same : sameBelow n nf nf')
include same

theorem smallerChild_congr {heap : Vector Handle 256} (below : heapBelow n heap) (hsize i : Nat) :
    smallerChild nf hsize heap i = smallerChild nf' hsize heap i := by
  simp only [smallerChild, slotFreq_congr same below]

theorem siftDownLoop_congr (hsize fuel : Nat) : ∀ (i : Nat) {heap : Vector Handle 256}, heapBelow n heap →
    siftDownLoop nf hsize fuel i heap = siftDownLoop nf' hsize fuel i heap := by
  induction fuel with
  | zero => exact fun _ _ _ => rfl
  | succ fuel ih =>
    intro i heap below
    simp only [siftDownLoop_succ, smallerChild_congr same below, slotFreq_congr same below,
      ih _ (heapBelow_swapSlots below _ _)]

theorem siftUpLoop_congr (fuel : Nat) : ∀ (i : Nat) {heap : Vector Handle 256}, heapBelow n heap →
    siftUpLoop nf fuel i heap = siftUpLoop nf' fuel i heap := by
  induction fuel with
  | zero => exact fun _ _ _ => rfl
  | succ fuel ih =>
    intro i heap below
    simp only [siftUpLoop_succ, slotFreq_congr same below, ih _ (heapBelow_swapSlots below _ _)]

theorem heapifyFrom_congr (m : Nat) : ∀ {heap : Vector Handle 256}, heapBelow n heap →
    heapifyFrom nf m heap = heapifyFrom nf' m heap := by
  induction m with
  | zero => exact fun _ => rfl
  | succ m ih =>
    intro heap below
    have sifted : siftDown nf Config.ALPHABET m heap = siftDown nf' Config.ALPHABET m heap :=
      siftDownLoop_congr same _ _ m below
    simp only [heapifyFrom, sifted]
    exact ih (heapBelow_siftDownLoop nf' _ _ m below)

end

/-! ## Two builds side by side -/

/-- Two builds after `k` merges: the same heap, and the same nodes as far as they have been made. -/
structure SameBuild (k : Nat) (s s' : State) : Prop where
  heap : s.HEAP = s'.HEAP
  hsize : s.HSIZE = s'.HSIZE
  below : heapBelow (256 + k) s.HEAP
  freqs : sameBelow (256 + k) s.NFREQ s'.NFREQ
  lefts : ∀ j, j < k → readAt s.NLEFT j = readAt s'.NLEFT j
  rights : ∀ j, j < k → readAt s.NRIGHT j = readAt s'.NRIGHT j
  count : 1 ≤ k → s.MCOUNT = s'.MCOUNT

/-- R92, R98: before the first merge. -/
theorem sameBuild_startBuild {s s' : State} (same : sameBelow 256 s.NFREQ s'.NFREQ) :
    SameBuild 0 (startBuild s) (startBuild s') := by
  have floored : sameBelow 256 (floorStep s.NFREQ) (floorStep s'.NFREQ) := fun i hi => by
    rw [readAt_floorStep_leaf _ hi, readAt_floorStep_leaf _ hi, same i hi]
  constructor
  case heap =>
    simp only [startBuild, heapify_fields]
    exact heapifyFrom_congr floored _ heapBelow_seedHeap
  case hsize => rfl
  case below => exact (forest_startBuild s).below
  case freqs => exact floored
  case lefts => nofun
  case rights => nofun
  case count => nofun

section
variable {k : Nat} {s s' : State}

/-- R95: the extractions are the same. -/
theorem SameBuild.extractMin (h : SameBuild k s s') :
    (extractMin s).1 = (extractMin s').1 ∧ SameBuild k (extractMin s).2 (extractMin s').2 := by
  obtain ⟨_, below⟩ := heapBelow_extractMin h.below
  refine ⟨by simp only [Machine.extractMin, h.heap], { h with heap := ?_, hsize := ?_, below }⟩
  · simp only [extractMin_fields, ← h.hsize, ← h.heap]
    split
    · exact siftDownLoop_congr h.freqs _ _ 0 (heapBelow_writeAt h.below 0 (h.below _))
    · rfl
  · simp only [extractMin_fields, h.hsize]

theorem SameBuild.extracted (h : SameBuild k s s') :
    extractedPair s = extractedPair s' ∧ SameBuild k (afterExtracts s) (afterExtracts s') := by
  obtain ⟨first, h1⟩ := h.extractMin
  obtain ⟨second, h2⟩ := h1.extractMin
  exact ⟨Prod.ext first second, h2⟩

/-- R99: so are their frequencies. -/
theorem SameBuild.nfreq_pair (h : SameBuild k s s') :
    s.nfreq (extractedPair s).1 = s'.nfreq (extractedPair s').1 ∧
      s.nfreq (extractedPair s).2 = s'.nfreq (extractedPair s').2 := by
  obtain ⟨aBelow, cBelow, _⟩ := extractedPair_below h.below
  obtain ⟨pair, _⟩ := h.extracted
  rw [← pair]
  exact ⟨h.freqs _ aBelow, h.freqs _ cBelow⟩

/-- An array element below `k + 1` after the write of element `k`. -/
theorem readAt_writeAt_congr {α : Type} [Inhabited α] {m : Nat} {v v' : Vector α m} {i j : Nat} (x : α)
    (hj : j < i + 1) (hi : i < m) (h : j < i → readAt v j = readAt v' j) :
    readAt (writeAt v i x) j = readAt (writeAt v' i x) j := by
  by_cases e : i = j
  · subst e
    rw [readAt_writeAt_same _ _ hi, readAt_writeAt_same _ _ hi]
  · rw [readAt_writeAt_other _ _ e, readAt_writeAt_other _ _ e, h (by omega)]

/-- R99: the merge makes the same node. -/
theorem SameBuild.merged (h : SameBuild k s s') (hk : k < 255) : SameBuild (k + 1) (merged k s) (merged k s') := by
  obtain ⟨pair, after⟩ := h.extracted
  obtain ⟨fa, fc⟩ := h.nfreq_pair
  have freqs : sameBelow (256 + (k + 1)) (linked k s).NFREQ (linked k s').NFREQ := fun i hi => by
    simp only [linked, fa, fc]
    exact readAt_writeAt_congr _ (by omega) (by omega) fun hi' => h.freqs i (by omega)
  have added : heapBelow (256 + (k + 1)) (writeAt (afterExtracts s).HEAP (afterExtracts s).HSIZE.toNat
      (BitVec.ofNat 9 (256 + k))) :=
    heapBelow_writeAt (heapBelow_mono after.below (by omega)) _ (by rw [toNat_newNode hk]; omega)
  obtain ⟨_, nl, nr, mcount⟩ := merged_fields k s
  obtain ⟨_, nl', nr', mcount'⟩ := merged_fields k s'
  constructor
  case heap =>
    simp only [merged_eq_insertNode, insertNode_fields]
    exact (siftUpLoop_congr freqs _ _ added).trans (by simp only [after.heap, after.hsize, linked, siftUp])
  case hsize =>
    simp only [merged_eq_insertNode, insertNode_fields]
    exact congrArg (· + 1#9) after.hsize
  case below =>
    simp only [merged_eq_insertNode, insertNode_fields]
    exact heapBelow_siftUpLoop _ _ _ added
  case freqs => exact freqs
  case lefts =>
    intro j hj
    rw [nl, nl', ← pair]
    exact readAt_writeAt_congr _ hj hk (h.lefts j)
  case rights =>
    intro j hj
    rw [nr, nr', ← pair]
    exact readAt_writeAt_congr _ hj hk (h.rights j)
  case count =>
    intro _
    rw [mcount, mcount']

end

/-- R107: what two BUILDs that fault have in common. -/
structure SameFault (t t' : State) : Prop where
  heap : t.HEAP = t'.HEAP
  hsize : t.HSIZE = t'.HSIZE
  err : t.ERR = t'.ERR
  info : t.ERRINFO = t'.ERRINFO

/-- R101: the merges answer alike: all of them fit, or the same one faults. -/
theorem SameBuild.mergeFrom (n : Nat) : ∀ {k : Nat} {s s' : State}, SameBuild k s s' → k + n ≤ 255 →
    (∃ u u', Machine.mergeFrom n k s = (u, false) ∧ Machine.mergeFrom n k s' = (u', false) ∧
      SameBuild (k + n) u u') ∨
    (∃ u u', Machine.mergeFrom n k s = (u, true) ∧ Machine.mergeFrom n k s' = (u', true) ∧ SameFault u u') := by
  induction n with
  | zero => exact fun h _ => .inl ⟨_, _, rfl, rfl, h⟩
  | succ n ih =>
    intro k s s' h hk
    obtain ⟨fa, fc⟩ := h.nfreq_pair
    have sum : pairSum s = pairSum s' := by rw [pairSum, pairSum, fa, fc]
    obtain ⟨fits, _⟩ | ⟨exceeds, e⟩ := merge_cases k s
    · rw [mergeFrom_succ_of_fits fits, mergeFrom_succ_of_fits (sum ▸ fits), show k + (n + 1) = k + 1 + n by omega]
      exact ih (h.merged (by omega)) (by omega)
    · obtain ⟨fits', _⟩ | ⟨_, e'⟩ := merge_cases k s'
      · omega
      · obtain ⟨_, after⟩ := h.extracted
        rw [mergeFrom_succ, mergeFrom_succ, e, e']
        exact .inr ⟨_, _, rfl, rfl, after.heap, after.hsize, rfl, rfl⟩

/-- R102: after the last merge every node has been made, so the whole arrays are the same. -/
theorem SameBuild.arrays {s s' : State} (h : SameBuild 255 s s') :
    s.NFREQ = s'.NFREQ ∧ s.NLEFT = s'.NLEFT ∧ s.NRIGHT = s'.NRIGHT :=
  ⟨eq_of_readAt_eq h.freqs, eq_of_readAt_eq h.lefts, eq_of_readAt_eq h.rights⟩

/-- Settles O28: the two builds side by side, merge by merge. -/
theorem buildDependsOnCountsOnly : Obligations.BuildDependsOnCountsOnly := by
  intro s s' t t' hp hp' same e e'
  rw [exec_build_eq hp] at e
  rw [exec_build_eq hp'] at e'
  cases e
  cases e'
  obtain ⟨u, u', hu, hu', h⟩ | ⟨u, u', hu, hu', h⟩ := (sameBuild_startBuild same).mergeFrom 255 (by omega)
  · obtain ⟨freqs, lefts, rights⟩ := h.arrays
    rw [buildTree_of_completed hu, buildTree_of_completed hu']
    have root : readAt u.HEAP 0 = readAt u'.HEAP 0 := by rw [h.heap]
    exact ⟨rfl, h.heap, h.hsize, fun _ => ⟨freqs, lefts, rights, root, h.count (by omega)⟩, nofun⟩
  · obtain ⟨e, fault⟩ := buildTree_of_faulted hu
    obtain ⟨e', fault'⟩ := buildTree_of_faulted hu'
    rw [e, e', fault, fault']
    exact ⟨rfl, h.heap, h.hsize, nofun, fun _ => ⟨h.err, h.info⟩⟩

end Sys2Proof.Machine

/-! SUPPORT. Huffman's bound on weights and code lengths (41_tree_builder.md R105): the lengths of a code of
which no word starts another satisfy
Kraft's inequality, and among lengths that do, merging the two least weights costs their sum. -/

namespace Sys2Proof.Machine

/-! ## Weights with code lengths -/

/-- The Kraft sum of the lengths of pairs of a weight and a code length. -/
def kraftSum (pairs : Multiset (ℕ × ℕ)) : ℚ := (pairs.map fun p => (1 / 2 : ℚ) ^ p.2).sum

/-- The sum of weight times code length. -/
def codeCost (pairs : Multiset (ℕ × ℕ)) : ℕ := (pairs.map fun p => p.1 * p.2).sum

/-- No code lengths that satisfy Kraft's inequality cost less than `bound` on these weights. -/
def CostBound (weights : Multiset ℕ) (bound : ℕ) : Prop :=
  ∀ pairs : Multiset (ℕ × ℕ), pairs.map Prod.fst = weights → kraftSum pairs ≤ 1 → bound ≤ codeCost pairs

@[simp] theorem kraftSum_cons (p : ℕ × ℕ) (pairs : Multiset (ℕ × ℕ)) :
    kraftSum (p ::ₘ pairs) = (1 / 2 : ℚ) ^ p.2 + kraftSum pairs := by
  simp [kraftSum]

@[simp] theorem codeCost_cons (p : ℕ × ℕ) (pairs : Multiset (ℕ × ℕ)) :
    codeCost (p ::ₘ pairs) = p.1 * p.2 + codeCost pairs := by
  simp [codeCost]

/-- The Kraft sum depends on the lengths only. -/
theorem kraftSum_congr {pairs pairs' : Multiset (ℕ × ℕ)} (h : pairs.map Prod.snd = pairs'.map Prod.snd) :
    kraftSum pairs = kraftSum pairs' := by
  have e := congrArg (fun lengths : Multiset ℕ => (lengths.map fun l => (1 / 2 : ℚ) ^ l).sum) h
  simpa only [kraftSum, Multiset.map_map, Function.comp_def] using e

theorem exists_cons_of_map_fst {pairs : Multiset (ℕ × ℕ)} {w : ℕ} {ws : Multiset ℕ}
    (h : pairs.map Prod.fst = w ::ₘ ws) : ∃ l rest, pairs = (w, l) ::ₘ rest ∧ rest.map Prod.fst = ws := by
  obtain ⟨⟨v, l⟩, mem, rfl, rest⟩ := (Multiset.map_eq_cons Prod.fst pairs ws w).2 h
  exact ⟨l, pairs.erase (v, l), (Multiset.cons_erase mem).symm, rest⟩

/-! ## Exchange -/

/-- The least weight may take the greatest length: exchanging lengths keeps them as they are and costs no more. -/
theorem exists_longest (w l : ℕ) (pairs : Multiset (ℕ × ℕ)) (least : ∀ p ∈ pairs, w ≤ p.1) :
    ∃ l' pairs', pairs'.map Prod.fst = pairs.map Prod.fst ∧
      l' ::ₘ pairs'.map Prod.snd = l ::ₘ pairs.map Prod.snd ∧ (∀ p ∈ pairs', p.2 ≤ l') ∧
      codeCost ((w, l') ::ₘ pairs') ≤ codeCost ((w, l) ::ₘ pairs) := by
  induction pairs using Multiset.induction_on with
  | empty => exact ⟨l, 0, rfl, rfl, by simp, Nat.le_refl _⟩
  | cons p pairs ih =>
    obtain ⟨l', pairs', weights, lengths, longest, cost⟩ := ih fun q hq => least q (Multiset.mem_cons_of_mem hq)
    have wp : w ≤ p.1 := least p (Multiset.mem_cons_self p pairs)
    simp only [codeCost_cons] at cost ⊢
    by_cases h : p.2 ≤ l'
    · refine ⟨l', p ::ₘ pairs', by simp [weights], ?_, by simpa [h] using longest, ?_⟩
      · simp only [Multiset.map_cons]
        rw [Multiset.cons_swap, lengths, Multiset.cons_swap]
      · rw [codeCost_cons]
        omega
    · refine ⟨p.2, (p.1, l') ::ₘ pairs', by simp [weights], ?_, ?_, ?_⟩
      · simp only [Multiset.map_cons]
        rw [lengths, Multiset.cons_swap]
      · intro q hq
        obtain rfl | hq := Multiset.mem_cons.1 hq
        · exact (Nat.le_of_not_le h)
        · exact (longest q hq).trans (Nat.le_of_not_le h)
      · have exchange : w * p.2 + p.1 * l' ≤ w * l' + p.1 * p.2 := by
          obtain ⟨d, hd⟩ := Nat.exists_eq_add_of_le (Nat.le_of_not_le h)
          rw [hd, Nat.mul_add, Nat.mul_add]
          have := Nat.mul_le_mul_right d wp
          omega
        rw [codeCost_cons]
        simp only
        omega

/-- Lengths of at most `m` have a Kraft sum that is a multiple of `1 / 2 ^ m`. -/
theorem exists_kraftSum_eq {m : ℕ} (pairs : Multiset (ℕ × ℕ)) (h : ∀ p ∈ pairs, p.2 ≤ m) :
    ∃ n : ℕ, kraftSum pairs = n * (1 / 2 : ℚ) ^ m := by
  induction pairs using Multiset.induction_on with
  | empty => exact ⟨0, by simp [kraftSum]⟩
  | cons p pairs ih =>
    obtain ⟨n, hn⟩ := ih fun q hq => h q (Multiset.mem_cons_of_mem hq)
    obtain ⟨d, hd⟩ := Nat.exists_eq_add_of_le (h p (Multiset.mem_cons_self p pairs))
    refine ⟨2 ^ d + n, ?_⟩
    have scaled : (1 / 2 : ℚ) ^ p.2 = 2 ^ d * (1 / 2 : ℚ) ^ m := by
      rw [hd, pow_add, mul_left_comm, ← mul_pow]
      norm_num
    rw [kraftSum_cons, hn, scaled]
    push_cast
    ring

/-- The two longest codes may be siblings: where the one is longer, there is room to shorten it to the other. -/
theorem kraftSum_siblings {l l' : ℕ} {pairs : Multiset (ℕ × ℕ)} (hl : l' ≤ l) (h : ∀ p ∈ pairs, p.2 ≤ l')
    (kraft : (1 / 2 : ℚ) ^ l + ((1 / 2 : ℚ) ^ l' + kraftSum pairs) ≤ 1) :
    ∃ m, l' = m + 1 ∧ (1 / 2 : ℚ) ^ m + kraftSum pairs ≤ 1 := by
  obtain ⟨n, hn⟩ := exists_kraftSum_eq pairs h
  have unit : (1 / 2 : ℚ) ^ l' * 2 ^ l' = 1 := by
    rw [← mul_pow]
    norm_num
  have room : n + 1 < 2 ^ l' := by
    have positive : (0 : ℚ) < (1 / 2) ^ l := by positivity
    have less : ((n : ℚ) + 1) * (1 / 2 : ℚ) ^ l' < 1 := by
      rw [hn] at kraft
      linarith
    have scaled := mul_lt_mul_of_pos_right less (show (0 : ℚ) < 2 ^ l' by positivity)
    rw [mul_assoc, unit] at scaled
    have cast : ((n + 1 : ℕ) : ℚ) < ((2 ^ l' : ℕ) : ℚ) := by
      push_cast
      linarith
    exact_mod_cast cast
  obtain _ | m := l'
  · simp at room
  refine ⟨m, rfl, ?_⟩
  have fits : ((n : ℚ) + 2) ≤ 2 ^ (m + 1) := by exact_mod_cast room
  have scaled := mul_le_mul_of_nonneg_right fits (show (0 : ℚ) ≤ (1 / 2) ^ (m + 1) by positivity)
  rw [mul_comm (2 ^ (m + 1)), unit] at scaled
  have half : (1 / 2 : ℚ) ^ m = 2 * (1 / 2) ^ (m + 1) := by
    rw [pow_succ]
    ring
  rw [hn, half]
  linarith

/-- R105: merging the two least weights `a` and `c` costs `a + c`. -/
theorem CostBound.merge {a c bound : ℕ} {ws : Multiset ℕ} (hac : a ≤ c) (least : ∀ w ∈ ws, c ≤ w)
    (h : CostBound ((a + c) ::ₘ ws) bound) : CostBound (a ::ₘ c ::ₘ ws) (a + c + bound) := by
  intro pairs weights kraft
  obtain ⟨l0, pairs0, rfl, weights0⟩ := exists_cons_of_map_fst weights
  have aLeast : ∀ p ∈ pairs0, a ≤ p.1 := fun p hp => by
    have mem := Multiset.mem_map_of_mem Prod.fst hp
    rw [weights0, Multiset.mem_cons] at mem
    rcases mem with e | mem
    · omega
    · exact hac.trans (least _ mem)
  obtain ⟨l, pairs1, weights1, lengths1, longest1, cost1⟩ := exists_longest a l0 pairs0 aLeast
  obtain ⟨l2, pairs2, rfl, weights2⟩ := exists_cons_of_map_fst (weights1.trans weights0)
  have cLeast : ∀ p ∈ pairs2, c ≤ p.1 := fun p hp => least _ (weights2 ▸ Multiset.mem_map_of_mem Prod.fst hp)
  obtain ⟨l', pairs3, weights3, lengths3, longest3, cost3⟩ := exists_longest c l2 pairs2 cLeast
  have shorter : l' ≤ l := by
    have mem : l' ∈ ((c, l2) ::ₘ pairs2).map Prod.snd := by
      rw [Multiset.map_cons, ← lengths3]
      exact Multiset.mem_cons_self _ _
    obtain ⟨p, hp, rfl⟩ := Multiset.mem_map.1 mem
    exact longest1 p hp
  have sameLengths : ((a, l) ::ₘ (c, l') ::ₘ pairs3).map Prod.snd = ((a, l0) ::ₘ pairs0).map Prod.snd := by
    rw [Multiset.map_cons, Multiset.map_cons, Multiset.map_cons, ← lengths1, lengths3, Multiset.map_cons]
  rw [← kraftSum_congr sameLengths, kraftSum_cons, kraftSum_cons] at kraft
  obtain ⟨m, hm, room⟩ := kraftSum_siblings shorter longest3 kraft
  have merged := h ((a + c, m) ::ₘ pairs3) (by rw [Multiset.map_cons, weights3, weights2]) (by rwa [kraftSum_cons])
  simp only [codeCost_cons] at cost1 cost3 merged ⊢
  calc a + c + bound ≤ a + c + ((a + c) * m + codeCost pairs3) := by omega
    _ = a * l' + (c * l' + codeCost pairs3) := by rw [hm]; ring
    _ ≤ a * l + (c * l' + codeCost pairs3) := by
      have := Nat.mul_le_mul_left a shorter
      omega
    _ ≤ a * l0 + codeCost pairs0 := by omega

/-! ## Codes of which no word starts another -/

/-- No word of `S` starts another, and none is empty: a text of such words has one reading. -/
theorem uniquelyDecodable_of_prefixFree {S : Set (List Bool)} (nonempty : [] ∉ S)
    (free : ∀ u ∈ S, ∀ v ∈ S, u <+: v → u = v) : InformationTheory.UniquelyDecodable S := by
  intro L
  induction L with
  | nil =>
    intro L' _ hL' e
    cases L' with
    | nil => rfl
    | cons v L' =>
      have empty : v = [] := by simp_all
      exact absurd (empty ▸ hL' v List.mem_cons_self) nonempty
  | cons u L ih =>
    intro L' hL hL' e
    have hu := hL u List.mem_cons_self
    cases L' with
    | nil =>
      have empty : u = [] := by simp_all
      exact absurd (empty ▸ hu) nonempty
    | cons v L' =>
      have hv := hL' v List.mem_cons_self
      rw [List.flatten_cons, List.flatten_cons] at e
      have same : u = v := by
        rcases List.prefix_or_prefix_of_prefix (l₃ := v ++ L'.flatten) ⟨_, e⟩ ⟨_, rfl⟩ with p | p
        · exact free u hu v hv p
        · exact (free v hv u hu p).symm
      subst same
      rw [ih L' (fun w hw => hL w (List.mem_cons_of_mem _ hw)) (fun w hw => hL' w (List.mem_cons_of_mem _ hw))
        (List.append_cancel_left e)]

/-- Kraft's inequality for a code of two or more words of which none starts another. -/
theorem kraft_of_prefixFree {n : ℕ} (hn : 2 ≤ n) (code : ℕ → List Bool)
    (free : ∀ i j, i < n → j < n → i ≠ j → ¬ code i <+: code j) :
    ∑ i ∈ Finset.range n, (1 / 2 : ℚ) ^ (code i).length ≤ 1 := by
  have injective : Set.InjOn code (Finset.range n) := by
    intro i hi j hj e
    by_contra ne
    exact free i j (by simpa using hi) (by simpa using hj) ne (e ▸ List.prefix_refl _)
  have decodable : InformationTheory.UniquelyDecodable ((Finset.range n).image code : Set (List Bool)) := by
    refine uniquelyDecodable_of_prefixFree ?_ ?_
    · simp only [Finset.coe_image, Set.mem_image, Finset.mem_coe, Finset.mem_range]
      rintro ⟨i, hi, e⟩
      obtain ⟨j, hj, ne⟩ : ∃ j, j < n ∧ i ≠ j := by
        by_cases h0 : i = 0
        · exact ⟨1, by omega, by omega⟩
        · exact ⟨0, by omega, h0⟩
      exact free i j hi hj ne (e ▸ List.nil_prefix)
    · simp only [Finset.coe_image, Set.mem_image, Finset.mem_coe, Finset.mem_range]
      rintro _ ⟨i, hi, rfl⟩ _ ⟨j, hj, rfl⟩ p
      by_contra ne
      exact free i j hi hj (fun e => ne (congrArg code e)) p
  have kraft := InformationTheory.kraft_mcmillan_inequality decodable
  rw [Finset.sum_image injective] at kraft
  rw [← Rat.cast_le (K := ℝ)]
  push_cast
  simpa using kraft

end Sys2Proof.Machine

/-! SUPPORT. The cost of the tree BUILD makes is what its merges add up to, and no code of which no word starts another
costs less (41_tree_builder.md R105). -/

namespace Sys2Proof.Machine

/-! ## The depth of the nodes -/

/-- R102: every node has one depth, however it is reached from the root. -/
theorem exists_depth {s : State} (tree : builtTree s) :
    ∃ depth : ℕ → ℕ, ∀ p h, follow s s.ROOT p = some h → depth h.toNat = p.length := by
  have one (n : ℕ) : ∃ d, ∀ p h, h.toNat = n → follow s s.ROOT p = some h → d = p.length := by
    by_cases reached : ∃ p h, h.toNat = n ∧ follow s s.ROOT p = some h
    · obtain ⟨q, m, hm, hq⟩ := reached
      refine ⟨q.length, fun p h hn hp => ?_⟩
      obtain rfl : m = h := BitVec.eq_of_toNat_eq (hm.trans hn.symm)
      rw [follow_root_unique tree q hq hp]
    · exact ⟨0, fun p h hn hp => absurd ⟨p, h, hn, hp⟩ reached⟩
  choose depth hdepth using one
  exact ⟨depth, fun p h hp => hdepth _ p h rfl hp⟩

/-- The child of node `256 + k` on a side, as a number. -/
def childIndex (s : State) (k : ℕ) (bit : Bool) : ℕ := (if bit then readAt s.NRIGHT k else readAt s.NLEFT k).toNat

/-- R141: a child is one edge deeper than its parent. -/
theorem depth_childIndex {s : State} (tree : builtTree s) {depth : ℕ → ℕ}
    (hdepth : ∀ p h, follow s s.ROOT p = some h → depth h.toNat = p.length) {k : ℕ} (hk : k < 255) (bit : Bool) :
    depth (childIndex s k bit) = depth (256 + k) + 1 := by
  have value := toNat_newNode hk
  obtain ⟨p, hp⟩ := exists_follow_root tree (254 - k) (BitVec.ofNat 9 (256 + k)) (by omega)
  have edge : follow s s.ROOT (p ++ [bit]) = some (if bit then readAt s.NRIGHT k else readAt s.NLEFT k) :=
    follow_concat_eq_some_iff.2 ⟨_, hp, child?_eq_some_iff.2 ⟨k, hk, value, rfl⟩⟩
  have parent := hdepth p _ hp
  rw [value] at parent
  rw [childIndex, hdepth _ _ edge, parent, List.length_append, List.length_singleton]

/-- A sum over the two children of each of `n` nodes is a sum over `m` nodes that are a child once each. -/
theorem sum_pairs {n m : ℕ} (child : ℕ → Bool → ℕ) (below : ∀ k bit, k < n → child k bit < m)
    (one : ∀ h, h < m → ∃ k bit, k < n ∧ child k bit = h ∧
      ∀ k' bit', k' < n → child k' bit' = h → k' = k ∧ bit' = bit) (g : ℕ → ℕ) :
    ∑ k ∈ Finset.range n, (g (child k false) + g (child k true)) = ∑ h ∈ Finset.range m, g h := by
  have sides (k : ℕ) : g (child k false) + g (child k true) = ∑ bit : Bool, g (child k bit) := by
    rw [Fintype.sum_bool, Nat.add_comm]
  simp only [sides]
  rw [← Finset.sum_product']
  refine Finset.sum_bij (fun x _ => child x.1 x.2) ?_ ?_ ?_ fun _ _ => rfl
  · rintro ⟨k, bit⟩ hx
    simp only [Finset.mem_product, Finset.mem_range, Finset.mem_univ, and_true] at hx ⊢
    exact below k bit hx
  · rintro ⟨k, bit⟩ hx ⟨k', bit'⟩ hx' e
    simp only [Finset.mem_product, Finset.mem_range, Finset.mem_univ, and_true] at hx hx' e
    obtain ⟨_, _, _, _, only⟩ := one _ (below k bit hx)
    obtain ⟨rfl, rfl⟩ := only k bit hx rfl
    obtain ⟨rfl, rfl⟩ := only k' bit' hx' e.symm
    rfl
  · intro h hh
    obtain ⟨k, bit, hk, e, _⟩ := one h (Finset.mem_range.1 hh)
    exact ⟨(k, bit), by simpa using hk, e⟩

/-- R102: the children of the 255 internal nodes are the nodes 0 to 509, each once. -/
theorem sum_children {s : State} (tree : builtTree s) (g : ℕ → ℕ) :
    ∑ k ∈ Finset.range 255, (g (childIndex s k false) + g (childIndex s k true)) = ∑ h ∈ Finset.range 510, g h := by
  obtain ⟨_, older, parents⟩ := tree
  refine sum_pairs (childIndex s) (fun k bit hk => ?_) parents g
  exact (older.child_lt hk rfl).trans_le (by omega)

/-- R104, R105: the leaves' frequencies times their depths sum to the frequencies of the internal nodes: the sum over
all nodes but the root, by parents, is that over the internal nodes with one edge more. -/
theorem sum_leaf_depths {s : State} (tree : builtTree s) (sums : sumsOfChildren s) {depth : ℕ → ℕ}
    (hdepth : ∀ p h, follow s s.ROOT p = some h → depth h.toNat = p.length) :
    ∑ b ∈ Finset.range 256, (readAt s.NFREQ b).toNat * depth b =
      ∑ k ∈ Finset.range 255, (readAt s.NFREQ (256 + k)).toNat := by
  have byParent (k : ℕ) (hk : k ∈ Finset.range 255) :
      (readAt s.NFREQ (childIndex s k false)).toNat * depth (childIndex s k false) +
        (readAt s.NFREQ (childIndex s k true)).toNat * depth (childIndex s k true) =
      (readAt s.NFREQ (256 + k)).toNat * depth (256 + k) + (readAt s.NFREQ (256 + k)).toNat := by
    have hk := Finset.mem_range.1 hk
    have sum : (readAt s.NFREQ (256 + k)).toNat =
        (readAt s.NFREQ (childIndex s k false)).toNat + (readAt s.NFREQ (childIndex s k true)).toNat := sums k hk
    rw [depth_childIndex tree hdepth hk, depth_childIndex tree hdepth hk, sum]
    ring
  have children := sum_children tree fun h => (readAt s.NFREQ h).toNat * depth h
  rw [Finset.sum_congr rfl byParent, Finset.sum_add_distrib] at children
  have root : depth 510 = 0 := by
    have := hdepth [] s.ROOT rfl
    rwa [tree.1] at this
  have nodes := Finset.sum_range_succ (fun h => (readAt s.NFREQ h).toNat * depth h) 510
  have split := Finset.sum_range_add (fun h => (readAt s.NFREQ h).toNat * depth h) 256 255
  rw [root, Nat.mul_zero, Nat.add_zero, ← children] at nodes
  rw [nodes] at split
  omega

/-! ## The merges bound the cost of every code -/

/-- R104: a node keeps its frequency once it is made. -/
theorem mergeFrom_keeps_made (n : ℕ) : ∀ {k : ℕ} {s u : State}, mergeFrom n k s = (u, false) →
    ∀ i, i < 256 + k → readAt u.NFREQ i = readAt s.NFREQ i := by
  induction n with
  | zero =>
    intro k s u e i _
    cases e
    rfl
  | succ n ih =>
    intro k s u e i hi
    obtain ⟨_, e⟩ := mergeFrom_succ_completes e
    obtain ⟨nf, _⟩ := merged_fields k s
    rw [ih e i (by omega), nf, readAt_writeAt_other _ _ (by omega)]

/-- R105: no code for the frequencies in the heap costs less than the nodes still to be made. -/
theorem Forest.costBound {s0 u : State} (n : ℕ) : ∀ {k : ℕ} {s : State}, Forest s0 k s → k + n = 255 →
    Machine.mergeFrom n k s = (u, false) →
    CostBound (weights s) (∑ i ∈ Finset.range n, (readAt u.NFREQ (256 + (k + i))).toNat) := by
  induction n with
  | zero => exact fun _ _ _ _ _ _ => Nat.zero_le _
  | succ n ih =>
    intro k s h hk e
    obtain ⟨fits, e⟩ := mergeFrom_succ_completes e
    have hk255 : k < 255 := by omega
    have bound := ih (h.merged hk255 fits) (by omega) e
    obtain ⟨_, _, _, ordered, least⟩ := afterExtracts_spec (h.size_succ hk255) (by omega) h.order
    have node : (readAt u.NFREQ (256 + k)).toNat = pairSum s := by
      have made := nfreq_merged hk255 fits (BitVec.ofNat 9 (256 + k))
      rw [State.nfreq, toNat_newNode hk255, if_pos rfl] at made
      rw [mergeFrom_keeps_made n e _ (by omega), made]
    rw [Multiset.coe_eq_coe.2 (weights_perm_merged (h.size_succ hk255) (by omega) hk255 h.below h.order fits),
      ← Multiset.cons_coe] at bound
    rw [Multiset.coe_eq_coe.2 (weights_perm_extracted (h.size_succ hk255) (by omega) h.order), ← Multiset.cons_coe,
      ← Multiset.cons_coe, Finset.sum_range_succ', Nat.add_zero, node, Nat.add_comm _ (pairSum s)]
    simp only [show ∀ i, k + 1 + i = k + (i + 1) by omega] at bound
    refine bound.merge ordered fun w hw => ?_
    obtain ⟨x, hx, rfl⟩ := List.mem_map.1 (Multiset.mem_coe.1 hw)
    exact least x hx

/-! ## Optimality -/

theorem sum_map_range {M : Type} [AddCommMonoid M] (f : ℕ → M) (n : ℕ) :
    ((List.range n).map f).sum = ∑ i ∈ Finset.range n, f i := rfl

/-- The byte of a number below 256. -/
theorem toNat_ofNat_byte {b : ℕ} (hb : b < 256) : (BitVec.ofNat 8 b).toNat = b := by
  rw [BitVec.toNat_ofNat]
  omega

/-- R105: a code of which no word starts another costs at least what the merges of BUILD add up to. -/
theorem prefixCode_cost_ge {s u : State} (done : mergeFrom 255 0 (startBuild s) = (u, false)) {code : Byte → List Bool}
    (free : ∀ b c, b ≠ c → ¬ code b <+: code c) :
    ∑ k ∈ Finset.range 255, (readAt u.NFREQ (256 + k)).toNat ≤
      ((List.range 256).map fun b => flooredFreq s b * (code (BitVec.ofNat 8 b)).length).sum := by
  have bound := (forest_startBuild s).costBound 255 (by omega) done
  simp only [Nat.zero_add] at bound
  rw [Multiset.coe_eq_coe.2 (weights_startBuild s)] at bound
  have kraft := kraft_of_prefixFree (n := 256) (by omega) (fun b => code (BitVec.ofNat 8 b)) fun i j hi hj ne =>
    free _ _ fun e => ne (by rw [← toNat_ofNat_byte hi, e, toNat_ofNat_byte hj])
  rw [← sum_map_range] at kraft
  have cost := bound ↑((List.range 256).map fun b => (flooredFreq s b, (code (BitVec.ofNat 8 b)).length))
    (by simp only [Multiset.map_coe, List.map_map, Function.comp_def])
    (by simpa only [kraftSum, Multiset.map_coe, Multiset.sum_coe, List.map_map, Function.comp_def] using kraft)
  simpa only [codeCost, Multiset.map_coe, Multiset.sum_coe, List.map_map, Function.comp_def] using cost

/-- Settles O29: the tree costs what the merges add up to, and no code of which no word starts another costs less. -/
theorem builtTreeIsOptimal : Obligations.BuiltTreeIsOptimal := by
  intro s hp fits
  have phase := buildTree_completes fits
  obtain ⟨u, done, forest, e⟩ := buildTree_of_built phase
  obtain ⟨tree, sums⟩ := builtTree_buildTree phase
  refine ⟨_, exec_build_eq hp, phase, exists_leafPath tree, fun path code paths free => ?_⟩
  obtain ⟨depth, hdepth⟩ := exists_depth tree
  refine le_trans (le_of_eq ?_) (prefixCode_cost_ge done free)
  have freqs : (buildTree s).NFREQ = u.NFREQ := by rw [e]
  have treeCost := sum_leaf_depths tree sums hdepth
  rw [freqs] at treeCost
  rw [sum_map_range, ← treeCost]
  refine Finset.sum_congr rfl fun b hb => ?_
  have hb := Finset.mem_range.1 hb
  have leaf := hdepth _ _ (paths (BitVec.ofNat 8 b))
  rw [leafOf_toNat, toNat_ofNat_byte hb] at leaf
  rw [leaf, forest.leaves b hb]

end Sys2Proof.Machine

/-! SUPPORT. ASSIGN completes on a built tree of depth at most 32 (42_code_assign.md R110, R112), and a completed one
leaves a tree and a table of its paths. -/

namespace Sys2Proof.Machine

/-! ## A walk that faults -/

/-- R90: a handle below 256 is the leaf of its byte. -/
theorem leafOf_setWidth {h : Handle} (leaf : h.toNat < 256) : leafOf (h.setWidth 8) = h := by
  rw [← BitVec.toNat_inj, leafOf_toNat, BitVec.toNat_setWidth]
  omega

/-- R112: a walk that faults met a leaf that is too deep, or faulted in a subtree, the left one first. -/
theorem walk_tooLong_cases {s : State} {fuel : Nat} {h leaf : Handle} {path : List Bool} {t t' : CodeTable}
    (e : walk s (fuel + 1) h path t = .tooLong leaf t') :
    (h.toNat < 256 ∧ 32 < path.length ∧ leaf = h ∧ t' = t) ∨
    ∃ l r, s.child? h false = some l ∧ s.child? h true = some r ∧
      (walk s fuel l (path ++ [false]) t = .tooLong leaf t' ∨
        ∃ u, walk s fuel l (path ++ [false]) t = .done u ∧ walk s fuel r (path ++ [true]) u = .tooLong leaf t') := by
  cases hl : isLeaf h
  case true =>
    rw [walk_leaf hl] at e
    split at e
    next deep =>
      cases e
      exact .inl ⟨(isLeaf_iff h).1 hl, deep, rfl, rfl⟩
    next => cases e
  case false =>
    cases hL : s.child? h false with
    | none => simp [walk, hl, hL] at e
    | some l =>
      cases hR : s.child? h true with
      | none => simp [walk, hl, hL, hR] at e
      | some r =>
        rw [walk_internal hl hL hR] at e
        refine .inr ⟨l, r, rfl, rfl, ?_⟩
        cases hw : walk s fuel l (path ++ [false]) t with
        | done u =>
          rw [hw] at e
          exact .inr ⟨u, rfl, e⟩
        | tooLong _ _ | noSuchNode | endless =>
          rw [hw] at e
          exact .inl e

/-- R112: the leaf a walk faults on stands below its start, more than 32 edges from the root. -/
theorem walk_tooLong {s : State} (fuel : Nat) :
    ∀ {h leaf : Handle} {path : List Bool} {t t' : CodeTable}, walk s fuel h path t = .tooLong leaf t' →
      ∃ q b, follow s h q = some (leafOf b) ∧ 32 < (path ++ q).length := by
  induction fuel with
  | zero => exact fun e => nomatch e
  | succ fuel ih =>
    intro h leaf path t t' e
    have below {d : Handle} {side : Bool} {u : CodeTable} (hc : s.child? h side = some d)
        (hw : walk s fuel d (path ++ [side]) u = .tooLong leaf t') :
        ∃ q b, follow s h q = some (leafOf b) ∧ 32 < (path ++ q).length := by
      obtain ⟨q, b, hq, deep⟩ := ih hw
      exact ⟨side :: q, b, by rwa [follow_cons_of_child hc], by simpa using deep⟩
    obtain ⟨ends, deep, _, _⟩ | ⟨l, r, hL, hR, left | ⟨u, _, right⟩⟩ := walk_tooLong_cases e
    · exact ⟨[], h.setWidth 8, congrArg some (leafOf_setWidth ends).symm, by simpa using deep⟩
    · exact below hL left
    · exact below hR right

/-! ## ASSIGN -/

/-- R64: phase BUILT admits ASSIGN. -/
theorem exec_assign_eq_run {s : State} (hp : s.PHASE = .built) : exec .assign s = run .assign s :=
  exec_of_ok (i := .assign) nofun (by simp [hp]) (by simp [phaseOk, hp])

/-- R110, R112: on a built tree no leaf of which is deeper than 32 ASSIGN ends in phase ASSIGNED: its walk ends, and
not at a leaf that is too deep. -/
theorem run_assign_completes {s : State} (tree : builtTree s) (shallow : ∀ p b, leafPath s p b → p.length ≤ 32) :
    ∃ t, run .assign s = .next t ∧ t.PHASE = .assigned := by
  obtain ⟨root, older, _⟩ := tree
  have ends := walkTree_answers older root (freshTable s.DRAWS)
  simp only [run]
  cases hw : walkTree s (freshTable s.DRAWS) with
  | done c => exact ⟨_, rfl, rfl⟩
  | tooLong leaf c =>
    rw [walkTree_eq_walk root] at hw
    obtain ⟨p, b, path, deep⟩ := walk_tooLong _ hw
    exact absurd (shallow p b path) (Nat.not_le_of_lt deep)
  | noSuchNode | endless =>
    rw [hw] at ends
    exact ends.elim

/-- R110: a completed ASSIGN changes the code table, the phase and the count of draws only. -/
theorem run_assign_frame {s t : State} (h : run .assign s = .next t) (hp : t.PHASE = .assigned) :
    t = { s with CODE := t.CODE, LEN := t.LEN, PHASE := .assigned, DRAWS := t.DRAWS } := by
  obtain ⟨c, _, rfl⟩ := run_assign_done h hp
  rfl

/-- A state with the links of a built tree has a built tree. -/
theorem builtTree_of_sameTree {s t : State} (same : sameTree s t) (tree : builtTree s) : builtTree t := by
  obtain ⟨_, nl, nr, _, _, _, root⟩ := same
  simpa only [builtTree, olderChildren, oneParent, isChildOf, nl, nr, root] using tree

/-- R113: a completed ASSIGN leaves the tree, and every byte's path in the table. -/
theorem codesArePaths_of_assign {s t : State} (hp : s.PHASE = .built) (tree : builtTree s)
    (e : exec .assign s = .next t) (assigned : t.PHASE = .assigned) : builtTree t ∧ codesArePaths t := by
  rw [exec_assign_eq_run hp] at e
  obtain ⟨same, codes⟩ := codeIs_of_assign tree e assigned
  refine ⟨builtTree_of_sameTree same tree, fun b => ?_⟩
  obtain ⟨p, path⟩ := exists_leafPath tree b
  obtain ⟨short, code⟩ := codes b p path
  exact ⟨p, (leafPath_of_sameTree same p b).2 path, leafPath_length_pos tree path, short, code⟩

/-- Settles O30: the walk ends, and it ends at no deep leaf, so it wrote every byte's path. -/
theorem assignWritesPaths : Obligations.AssignWritesPaths := by
  intro s hp tree shallow
  obtain ⟨t, e, assigned⟩ := run_assign_completes tree shallow
  have executed := (exec_assign_eq_run hp).trans e
  obtain ⟨_, codes⟩ := codeIs_of_assign tree e assigned
  obtain ⟨_, paths⟩ := codesArePaths_of_assign hp tree executed assigned
  exact ⟨t, executed, run_assign_frame e assigned, fun p b path => (codes b p path).2, paths⟩

end Sys2Proof.Machine

/-! SUPPORT. A code table of the paths of a built tree (42_code_assign.md R113 to R115): no code starts another, the
lengths meet the Kraft equality, and one code is 0. -/

namespace Sys2Proof.Machine

/-- R111: where the table entry of a byte is a path of at most 32 edges, the path is what ENC writes. -/
theorem codeBits_eq_of_codeIs {s : State} {b : Byte} {p : List Bool} (short : p.length ≤ 32) (code : codeIs s b p) :
    codeBits s b = p := by
  obtain ⟨len, bits⟩ := code
  refine List.ext_getElem (by simp [codeBits, len]) fun j _ hj => ?_
  simp [codeBits, bits j (by omega), hj]

/-- R113: a path to a leaf goes no further, so it starts no other leaf's path. -/
theorem leafPath_eq_of_prefix {s : State} {p q : List Bool} {b c : Byte} (hp : leafPath s p b) (hq : leafPath s q c)
    (pre : p <+: q) : b = c := by
  obtain ⟨r, rfl⟩ := pre
  have rest : follow s (leafOf b) r = some (leafOf c) := by
    rw [leafPath, follow_append, hp] at hq
    exact hq
  rw [follow_leaf s (by rw [leafOf_toNat]; exact b.isLt)] at rest
  split at rest
  next =>
    have same := congrArg BitVec.toNat (Option.some.inj rest)
    rw [leafOf_toNat, leafOf_toNat] at same
    exact BitVec.eq_of_toNat_eq same
  next => cases rest

/-- R91: left edges lead from every node down to a leaf. -/
theorem exists_leftmost_leaf {s : State} (older : olderChildren s) (m : Nat) : ∀ h : Handle, h.toNat = m → m ≤ 510 →
    ∃ n b, follow s h (List.replicate n false) = some (leafOf b) := by
  induction m using Nat.strong_induction_on with
  | _ m ih =>
    intro h hm hmax
    by_cases leaf : h.toNat < 256
    · exact ⟨0, h.setWidth 8, congrArg some (leafOf_setWidth leaf).symm⟩
    · obtain ⟨l, hL, less⟩ := child?_older older (n := h) (by omega) (by omega) false
      obtain ⟨n, b, path⟩ := ih l.toNat (by omega) l rfl (by omega)
      exact ⟨n + 1, b, by rwa [List.replicate_succ, follow_cons_of_child hL]⟩

section
variable {s : State} (tree : builtTree s) (codes : codesArePaths s)
include tree codes

/-- R111, R113: each path to a leaf has 1 to 32 edges and is the leaf's code. -/
theorem codeIs_of_leafPath {p : List Bool} {b : Byte} (path : leafPath s p b) :
    1 ≤ p.length ∧ p.length ≤ 32 ∧ codeIs s b p := by
  obtain ⟨q, hq, code⟩ := codes b
  rwa [follow_root_unique tree p path hq]

/-- R112: an internal node is at most 31 edges from the root, since a leaf stands below it. -/
theorem depth_internal_le {p : List Bool} {h : Handle} (path : follow s s.ROOT p = some h) (inner : 256 ≤ h.toNat)
    (node : h.toNat ≤ 510) : p.length ≤ 31 := by
  obtain ⟨_, older, _⟩ := id tree
  obtain ⟨n, b, down⟩ := exists_leftmost_leaf older _ h rfl node
  have edges : n ≠ 0 := by
    rintro rfl
    have leaf := congrArg BitVec.toNat (Option.some.inj down)
    rw [leafOf_toNat] at leaf
    omega
  have whole : leafPath s (p ++ List.replicate n false) b := by
    rw [leafPath, follow_append, path]
    exact down
  obtain ⟨_, short, _⟩ := codeIs_of_leafPath tree codes whole
  rw [List.length_append, List.length_replicate] at short
  omega

/-- R114: the Kraft equality times `2 ^ 32`. An internal node's `2 ^ (32 - depth)` is the sum of its two children's, so
over all nodes but the leaves these powers sum to what they sum to over all nodes but the root. -/
theorem sum_two_pow_len : ∑ b ∈ Finset.range 256, 2 ^ (32 - (readAt s.LEN b).toNat) = 2 ^ 32 := by
  obtain ⟨depth, hdepth⟩ := exists_depth tree
  have leaf (b : ℕ) (hb : b ∈ Finset.range 256) : 2 ^ (32 - (readAt s.LEN b).toNat) = 2 ^ (32 - depth b) := by
    have value := toNat_ofNat_byte (Finset.mem_range.1 hb)
    obtain ⟨p, path, _, _, len, _⟩ := codes (BitVec.ofNat 8 b)
    have deep := hdepth p _ path
    rw [leafOf_toNat, value] at deep
    rw [State.len, value] at len
    rw [len, deep]
  have inner (k : ℕ) (hk : k ∈ Finset.range 255) :
      2 ^ (32 - depth (childIndex s k false)) + 2 ^ (32 - depth (childIndex s k true)) =
        2 ^ (32 - depth (256 + k)) := by
    have hk := Finset.mem_range.1 hk
    have value := toNat_newNode hk
    obtain ⟨p, path⟩ := exists_follow_root tree (254 - k) (BitVec.ofNat 9 (256 + k)) (by omega)
    have short := depth_internal_le tree codes path (by omega) (by omega)
    have deep := hdepth p _ path
    rw [value] at deep
    rw [depth_childIndex tree hdepth hk, depth_childIndex tree hdepth hk, deep, ← Nat.two_mul, ← pow_succ']
    congr 1
    omega
  have root : depth 510 = 0 := by
    have := hdepth [] s.ROOT rfl
    rwa [tree.1] at this
  have children := sum_children tree fun h => 2 ^ (32 - depth h)
  rw [Finset.sum_congr rfl inner] at children
  have nodes := Finset.sum_range_succ (fun h => 2 ^ (32 - depth h)) 510
  have split := Finset.sum_range_add (fun h => 2 ^ (32 - depth h)) 256 255
  rw [root, ← children] at nodes
  rw [nodes] at split
  rw [Finset.sum_congr rfl leaf]
  omega

end

/-- R111: a code is 0 where its path has left edges only. -/
theorem code_eq_zero_iff {s : State} {b : Byte} {p : List Bool} (short : p.length ≤ 32) (code : codeIs s b p) :
    s.code b = 0#32 ↔ p = List.replicate p.length false := by
  obtain ⟨_, bits⟩ := code
  constructor
  · intro zero
    refine List.eq_replicate_iff.2 ⟨rfl, fun x hx => ?_⟩
    obtain ⟨j, hj, rfl⟩ := List.getElem_of_mem hx
    have bit := bits j (by omega)
    rw [zero, List.getElem?_eq_getElem hj] at bit
    simpa using bit.symm
  · intro left
    refine BitVec.eq_of_getLsbD_eq fun j hj => ?_
    rw [bits j hj, left, List.getElem?_replicate]
    split <;> simp

/-- Settles O32: the codes are the paths to the leaves. -/
theorem codesArePrefixFree : Obligations.CodesArePrefixFree := by
  intro s t hp tree e assigned
  obtain ⟨_, codes⟩ := codesArePaths_of_assign hp tree e assigned
  constructor
  · intro b
    obtain ⟨p, _, pos, short, len, _⟩ := codes b
    rw [len]
    exact ⟨pos, short⟩
  · intro b c ne pre
    obtain ⟨p, hp, _, shortP, codeP⟩ := codes b
    obtain ⟨q, hq, _, shortQ, codeQ⟩ := codes c
    rw [codeBits_eq_of_codeIs shortP codeP, codeBits_eq_of_codeIs shortQ codeQ] at pre
    exact ne (leafPath_eq_of_prefix hp hq pre)

/-- Settles O33: each internal node of the tree has two children. -/
theorem codeLengthsFillKraft : Obligations.CodeLengthsFillKraft := by
  intro s t hp tree e assigned
  obtain ⟨tree, codes⟩ := codesArePaths_of_assign hp tree e assigned
  exact (sum_map_range _ 256).trans (sum_two_pow_len tree codes)

/-- Settles O34: left edges lead from the root to one leaf, and of two paths of left edges one starts the other. -/
theorem oneAllZeroCode : Obligations.OneAllZeroCode := by
  intro s t hp tree e assigned
  obtain ⟨tree, codes⟩ := codesArePaths_of_assign hp tree e assigned
  obtain ⟨root, older, _⟩ := id tree
  obtain ⟨n, b, path⟩ := exists_leftmost_leaf older 510 t.ROOT (by rw [root]; rfl) (Nat.le_refl _)
  obtain ⟨_, short, code⟩ := codeIs_of_leafPath tree codes path
  refine ⟨b, (code_eq_zero_iff short code).2 (by simp), fun c zero => ?_, ?_⟩
  · obtain ⟨q, hq, _, shortQ, codeQ⟩ := codes c
    rw [(code_eq_zero_iff shortQ codeQ).1 zero] at hq
    rcases Nat.le_total q.length n with le | le
    · exact leafPath_eq_of_prefix hq path (by simpa [List.prefix_replicate_iff] using le)
    · exact (leafPath_eq_of_prefix path hq (by simpa [List.prefix_replicate_iff] using le)).symm
  · obtain ⟨len, _⟩ := code
    rwa [len, List.length_replicate]

end Sys2Proof.Machine

/-! SUPPORT. The writer (43_encoder.md R120 to R125): the state in which it stands after a sequence of bits, and what ENC, FLUSH
and a whole write session make of it. -/

namespace Sys2Proof.Machine

/-! ## Bytes and their bits (R42, R43) -/

/-- R42: a bit of the byte packed from a list. -/
theorem getLsbD_byteOf (bits : List Bool) {j : Nat} (hj : j < 8) : (byteOf bits).getLsbD j = bits[j]?.getD false := by
  simp [byteOf, hj, BitVec.getLsbD_ofBoolListLE, List.getD_eq_getElem?_getD]

/-- R42: a byte packed from a list is known by its first 8 bits. -/
theorem byteOf_congr {bits bits' : List Bool} (h : ∀ j, j < 8 → bits[j]? = bits'[j]?) : byteOf bits = byteOf bits' :=
  BitVec.eq_of_getLsbD_eq fun j hj => by rw [getLsbD_byteOf _ hj, getLsbD_byteOf _ hj, h j hj]

/-- R43: the last of the first `n + 1` bytes. -/
theorem bytesOf_succ (n : Nat) (bits : List Bool) : bytesOf (n + 1) bits = bytesOf n bits ++ [byteOf (bits.drop (8 * n))] := by
  simp [bytesOf, List.range_succ]

@[simp] theorem length_bytesOf (n : Nat) (bits : List Bool) : (bytesOf n bits).length = n := by simp [bytesOf]

/-- R43: bit `p` of a sequence is bit `p mod 8` of its byte `p / 8`, and 0 after the end. -/
theorem getLsbD_bytesOf {n p : Nat} (hp : p < 8 * n) (bits : List Bool) :
    ((bytesOf n bits)[p / 8]?.getD 0#8).getLsbD (p % 8) = bits[p]?.getD false := by
  have byte : p / 8 < n := by omega
  have index : 8 * (p / 8) + p % 8 = p := Nat.div_add_mod p 8
  simp [bytesOf, byte, getLsbD_byteOf _ (Nat.mod_lt p (show 0 < 8 by decide)), index]

/-- R43: bits after the first `n` bytes leave these bytes as they are. -/
theorem bytesOf_append {n : Nat} {bits : List Bool} (h : 8 * n ≤ bits.length) (more : List Bool) :
    bytesOf n (bits ++ more) = bytesOf n bits := by
  refine List.map_congr_left fun i hi => byteOf_congr fun j hj => ?_
  have inside : 8 * i + j < bits.length := by
    have := List.mem_range.1 hi
    omega
  rw [List.getElem?_drop, List.getElem?_drop, List.getElem?_append_left inside]

/-! ## One written bit (R120) -/

/-- R120: a bit put where the buffer holds 0 is the bit of the buffer there, and the others stay. -/
theorem getLsbD_putBit_of_clear {buf : Byte} {i : Nat} (clear : buf.getLsbD i = false) (x : Bool) {j : Nat} (hj : j < 8) :
    (putBit buf i x).getLsbD j = if j = i then x else buf.getLsbD j := by
  by_cases h : j = i
  · subst h
    cases x
    · exact clear.trans (by simp)
    · simp [putBit, hj]
  · have other : (1#8 <<< i).getLsbD j = false := by
      have : j < i ∨ j - i ≠ 0 := by omega
      rcases this with below | above
      · simp [below]
      · simp [above]
    cases x <;> simp [putBit, h, other]

/-- R120: the eighth bit emits the byte. -/
theorem writeBit_last {s : State} (h : s.WIDX = 7#3) (x : Bool) :
    writeBit x s = { s with OUT := s.OUT ++ [putBit s.WBUF 7 x], WBUF := 0#8, WIDX := 0#3 } := by
  simp [writeBit, h, outWrite]

/-- R120: a bit before the eighth stays in the buffer. -/
theorem writeBit_inside {s : State} (h : s.WIDX ≠ 7#3) (x : Bool) :
    writeBit x s = { s with WBUF := putBit s.WBUF s.WIDX.toNat x, WIDX := BitVec.ofNat 3 (s.WIDX.toNat + 1) } := by
  have next : s.WIDX + 1#3 = BitVec.ofNat 3 (s.WIDX.toNat + 1) := by bv_omega
  simp [writeBit, h, next]

/-- Settles O35: no write has reached bit `WIDX` of the buffer, so it is 0 before. -/
theorem writeBitFillsByte : Obligations.WriteBitFillsByte := by
  intro s x clean
  refine ⟨putBit s.WBUF s.WIDX.toNat x, fun j hj => getLsbD_putBit_of_clear (clean _ (Nat.le_refl _)) x hj,
    fun inside => writeBit_inside (by bv_omega) x, fun last => ?_⟩
  rw [last]
  exact writeBit_last (BitVec.eq_of_toNat_eq last) x

/-! ## Written bits (R43, R122) -/

/-- The state `s` with the bits `bits` written by a writer that held none: the whole bytes in `OUT`, the rest in the buffer. -/
def written (s : State) (bits : List Bool) : State :=
  { s with
    OUT := s.OUT ++ bytesOf (bits.length / 8) bits
    WBUF := byteOf (bits.drop (8 * (bits.length / 8)))
    WIDX := BitVec.ofNat 3 (bits.length % 8) }

/-- R25: a clean writer has written the bits it holds. -/
theorem written_pendingBits {s : State} (clean : writerClean s) : written s (pendingBits s) = s := by
  have length : (pendingBits s).length = s.WIDX.toNat := by simp [pendingBits, bitsOf]; omega
  have none : s.WIDX.toNat / 8 = 0 := by omega
  have index : BitVec.ofNat 3 (s.WIDX.toNat % 8) = s.WIDX := by bv_omega
  have buffer : byteOf (pendingBits s) = s.WBUF := BitVec.eq_of_getLsbD_eq fun j hj => by
    rw [getLsbD_byteOf _ hj]
    by_cases h : j < s.WIDX.toNat
    · simp [pendingBits, bitsOf, h, hj]
    · simp [pendingBits, bitsOf, h, clean j (by omega)]
  simp [written, length, none, index, buffer, bytesOf]

/-- R120: a bit put after the bits of a byte. -/
theorem putBit_byteOf {bits : List Bool} (h : bits.length < 8) (x : Bool) :
    putBit (byteOf bits) bits.length x = byteOf (bits ++ [x]) := by
  have clear : (byteOf bits).getLsbD bits.length = false := by simp [getLsbD_byteOf _ h]
  refine BitVec.eq_of_getLsbD_eq fun j hj => ?_
  rw [getLsbD_putBit_of_clear clear x hj, getLsbD_byteOf _ hj, getLsbD_byteOf _ hj]
  obtain before | rfl | after := Nat.lt_trichotomy j bits.length
  · rw [if_neg (by omega), List.getElem?_append_left before]
  · simp
  · rw [if_neg (by omega), List.getElem?_eq_none (by omega), List.getElem?_eq_none (by simp; omega)]

/-- R120: one more bit is written after the bits written before. -/
theorem writeBit_written (s : State) (bits : List Bool) (x : Bool) : writeBit x (written s bits) = written s (bits ++ [x]) := by
  have index : (written s bits).WIDX.toNat = bits.length % 8 := by simp [written]
  have rest : (bits.drop (8 * (bits.length / 8))).length = bits.length % 8 := by rw [List.length_drop]; omega
  have put : putBit (written s bits).WBUF (bits.length % 8) x = byteOf ((bits ++ [x]).drop (8 * (bits.length / 8))) := by
    rw [List.drop_append_of_le_length (by omega), ← putBit_byteOf (by omega), rest]
    rfl
  have kept : bytesOf (bits.length / 8) (bits ++ [x]) = bytesOf (bits.length / 8) bits := bytesOf_append (by omega) [x]
  by_cases last : bits.length % 8 = 7
  · have quot : (bits ++ [x]).length / 8 = bits.length / 8 + 1 := by simp; omega
    have mod : (bits ++ [x]).length % 8 = 0 := by simp; omega
    have none : (bits ++ [x]).drop (8 * (bits.length / 8 + 1)) = [] := List.drop_eq_nil_of_le (by simp; omega)
    rw [last] at put index
    rw [writeBit_last (BitVec.eq_of_toNat_eq index), put]
    simp only [written, quot, mod, none, bytesOf_succ, kept, List.append_assoc]
    rfl
  · have quot : (bits ++ [x]).length / 8 = bits.length / 8 := by simp; omega
    have mod : (bits ++ [x]).length % 8 = bits.length % 8 + 1 := by simp; omega
    rw [writeBit_inside (by rw [ne_eq, ← BitVec.toNat_inj, index]; exact last), index, put]
    simp only [written, quot, mod, kept]

/-- R43: bits are written after the bits written before. -/
theorem writeBits_written (s : State) (more : List Bool) : ∀ bits : List Bool,
    writeBits more (written s bits) = written s (bits ++ more) := by
  induction more with
  | nil => intro bits; simp [writeBits]
  | cons x more ih =>
    intro bits
    rw [writeBits, writeBit_written, ih, List.append_assoc]
    rfl

/-! ## ENC, FLUSH and a session -/

/-- R64, R122: in phase ASSIGNED, ENC writes its code. -/
theorem exec_enc_eq {s : State} (hp : s.PHASE = .assigned) (b : Byte) :
    exec (.enc b) s = .next (writeBits (codeBits s b) s) :=
  exec_of_ok (by simp) (by simp [hp]) (by simp [hp, phaseOk])

/-- R64, R123: in phase ASSIGNED, FLUSH emits the buffer and restarts the writer. -/
theorem exec_flush_eq {s : State} (hp : s.PHASE = .assigned) :
    exec .flush s = .next { s with OUT := s.OUT ++ [s.WBUF], WBUF := 0#8, WIDX := 0#3 } :=
  exec_of_ok (by simp) (by simp [hp]) (by simp [hp, phaseOk])

/-- Settles O36: the code is written after the bits the clean writer holds. -/
theorem encPacksTheCode : Obligations.EncPacksTheCode := by
  intro s b hp clean bits
  have code : writeBits (codeBits s b) (written s (pendingBits s)) = written s bits := writeBits_written s _ _
  rw [written_pendingBits clean] at code
  rw [exec_enc_eq hp, code]
  rfl

/-- R124: the ENC commands of a session write its codes one after the other. -/
theorem runCommands_encStr {s : State} (hp : s.PHASE = .assigned) (payload : List Byte) : ∀ bits : List Bool,
    runCommands (Pseudo.encStr payload) (written s bits) = .next (written s (bits ++ payloadBits s payload)) := by
  induction payload with
  | nil => intro bits; simp [Pseudo.encStr, payloadBits, runCommands]
  | cons b payload ih =>
    intro bits
    have enc : exec (.enc b) (written s bits) = .next (written s (bits ++ codeBits s b)) := by
      rw [exec_enc_eq (s := written s bits) hp]
      exact congrArg _ (writeBits_written s _ bits)
    simp only [Pseudo.encStr, List.map_cons, runCommands, enc] at ih ⊢
    rw [ih]
    simp [payloadBits]

/-- Commands run after commands that completed. -/
theorem runCommands_append {is js : List Instr} : ∀ {s t : State}, runCommands is s = .next t →
    runCommands (is ++ js) s = runCommands js t := by
  induction is with
  | nil => intro s t h; cases h; rfl
  | cons i is ih =>
    intro s t h
    simp only [List.cons_append, runCommands] at h ⊢
    cases e : exec i s with
    | next u => simp only [e] at h ⊢; exact ih h
    | fault f => simp [e] at h
    | refused r => simp [e] at h

/-- R124: the FLUSH of a session emits the byte after the whole ones. -/
theorem exec_flush_written {s : State} (hp : s.PHASE = .assigned) (buf : s.WBUF = 0#8) (idx : s.WIDX = 0#3) (bits : List Bool) :
    exec .flush (written s bits) = .next { s with OUT := s.OUT ++ bytesOf (bits.length / 8 + 1) bits } := by
  rw [exec_flush_eq (s := written s bits) hp, bytesOf_succ, ← List.append_assoc]
  simp only [written, ← buf, ← idx]

/-- Settles O38: the bytes of the session are those of its bits, up to the one the FLUSH emits. -/
theorem writeSessionBytes : Obligations.WriteSessionBytes := by
  intro s payload hp buf idx bits
  have start : written s [] = s := by
    have none : pendingBits s = [] := by simp [pendingBits, idx]
    rw [← none]
    exact written_pendingBits (by simp [writerClean, buf])
  have session : runCommands (Pseudo.encStr payload) s = .next (written s bits) := by
    have run := runCommands_encStr hp payload []
    rwa [start] at run
  have flush : runCommands (Pseudo.encode payload) s =
      .next { s with OUT := s.OUT ++ bytesOf (bits.length / 8 + 1) bits } := by
    rw [Pseudo.encode, runCommands_append session, runCommands, exec_flush_written hp buf idx]
    rfl
  have whole : (bytesOf (bits.length / 8 + 1) bits).take (bits.length / 8) = bytesOf (bits.length / 8) bits := by
    rw [bytesOf_succ, List.take_left' (length_bytesOf _ _)]
  refine ⟨_, _, bytesOf (bits.length / 8 + 1) bits, session, ?_, flush, rfl, length_bytesOf _ _,
    fun p hp => getLsbD_bytesOf (by simpa using hp) bits, ?_⟩
  · rw [whole]
    rfl
  · rw [length_bytesOf]
    omega

/-- Settles O37: FLUSH emits the buffer as it is. -/
theorem flushAlwaysEmitsOneByte : Obligations.FlushAlwaysEmitsOneByte := by
  intro s
  refine ⟨exec_flush_eq, fun hp clean => ⟨_, s.WBUF, exec_flush_eq hp, rfl, clean, fun idx => ?_⟩, fun early => ?_⟩
  · exact BitVec.eq_of_getLsbD_eq fun j _ => by simp [clean j (by simp [idx])]
  · have bad : exec .flush s = .next (raiseFault s .sequence (sequenceInfo s.PHASE .flush)) :=
      (exec_eq_guarded (by simp) s).trans
        (guarded_of_bad (by rcases early with hp | hp <;> simp [hp]) (by rcases early with hp | hp <;> simp [hp, phaseOk]))
    exact ⟨_, bad, rfl⟩

/-! ## What the writer leaves alone (R121) -/

/-- R120: written bits change the writer and are appended to `OUT`. -/
theorem writeBits_eq (bits : List Bool) : ∀ s : State, ∃ bs buf idx,
    writeBits bits s = { s with OUT := s.OUT ++ bs, WBUF := buf, WIDX := idx } := by
  induction bits with
  | nil => exact fun s => ⟨[], s.WBUF, s.WIDX, by simp [writeBits]⟩
  | cons x bits ih =>
    intro s
    obtain ⟨bs, buf, idx, e⟩ := ih (writeBit x s)
    rw [writeBits, e]
    by_cases h : s.WIDX = 7#3
    · exact ⟨putBit s.WBUF 7 x :: bs, buf, idx, by simp [writeBit_last h]⟩
    · exact ⟨bs, buf, idx, by simp [writeBit_inside h]⟩

/-- R121: where they run, ENC and FLUSH change the writer and append to `OUT`. -/
theorem run_writer_eq {i : Instr} {s t : State} (hi : (∃ b, i = .enc b) ∨ i = .flush) (h : run i s = .next t) :
    ∃ bs buf idx, t = { s with OUT := s.OUT ++ bs, WBUF := buf, WIDX := idx } := by
  rcases hi with ⟨b, rfl⟩ | rfl <;> cases h
  · exact writeBits_eq (codeBits s b) s
  · exact ⟨[s.WBUF], 0#8, 0#3, rfl⟩

/-- Settles O48: ignored, refused by the phase, or run. -/
theorem writerCommandFrame : Obligations.WriterCommandFrame := by
  intro s t i hi h
  obtain ⟨rfl, _⟩ | ⟨_, _, rfl⟩ | ⟨_, _, _, rfl⟩ | ⟨_, _, _, e⟩ := exec_cases h
  · simp at hi
  · exact ⟨sameTree_refl t, sameCodes_refl t, sameReader_refl t, sameHost_refl t, rfl, rfl, ⟨[], by simp⟩,
      .inl ⟨samePhase_refl t, rfl⟩⟩
  · exact ⟨sameTree_refl s, sameCodes_refl s, sameReader_refl s, sameHost_refl s, rfl, rfl, ⟨[], by simp⟩,
      .inr ⟨rfl, sameWriter_refl s, rfl⟩⟩
  · obtain ⟨bs, buf, idx, rfl⟩ := run_writer_eq hi e
    exact ⟨sameTree_refl s, sameCodes_refl s, sameReader_refl s, sameHost_refl s, rfl, rfl, ⟨bs, rfl⟩,
      .inl ⟨samePhase_refl s, rfl⟩⟩

end Sys2Proof.Machine

/-! SUPPORT. What the reader leaves alone (43_encoder.md R121, 44_decoder.md R140, R142): DOPEN and DSYM take tokens from the front
of `IN` and change the reader. -/

namespace Sys2Proof.Machine

/-- The state `s` with the reader, the decoder, `BUSY` and `OUT` of `r`, and the first `n` tokens of `IN` taken. -/
def State.withReader (s r : State) (n : Nat) : State :=
  { s with
    RBUF := r.RBUF
    RIDX := r.RIDX
    EOF := r.EOF
    RD_OPEN := r.RD_OPEN
    END := r.END
    DSTATE := r.DSTATE
    DNODE := r.DNODE
    DSYM := r.DSYM
    DSYM_VALID := r.DSYM_VALID
    BUSY := r.BUSY
    OUT := r.OUT
    IN := s.IN.drop n }

/-- From `s` to `t` only the reader, the decoder, `BUSY` and `OUT` change, and tokens are taken from the front of `IN`. -/
def readsOnly (s t : State) : Prop := ∃ n, t = s.withReader t n

theorem readsOnly_refl (s : State) : readsOnly s s := ⟨0, rfl⟩

theorem readsOnly_trans {s t u : State} (h : readsOnly s t) (g : readsOnly t u) : readsOnly s u := by
  obtain ⟨m, h⟩ := h
  obtain ⟨n, g⟩ := g
  refine ⟨m + n, g.trans ?_⟩
  rw [h]
  simp [State.withReader, List.drop_drop]

/-- What a command that only reads leaves alone. -/
theorem readsOnly_frame {s t : State} (h : readsOnly s t) :
    sameTree s t ∧ sameCodes s t ∧ sameWriter s t ∧ samePhase s t ∧ sameHost s t ∧ t.DRAWS = s.DRAWS ∧
      ∃ n, t.IN = s.IN.drop n := by
  obtain ⟨n, h⟩ := h
  rw [h]
  exact ⟨sameTree_refl s, sameCodes_refl s, sameWriter_refl s, samePhase_refl s, sameHost_refl s, rfl, n, rfl⟩

/-- R45: a read attempt takes at most one token. -/
theorem readsOnly_inRead {s t : State} {b : Byte} (h : inRead s = some (b, t)) : readsOnly s t ∧ t.OUT = s.OUT := by
  obtain ⟨_, e⟩ | ⟨_, _, e⟩ | ⟨_, _, _, i, e⟩ | ⟨_, _, i, e⟩ := inRead_cases s <;> rw [e] at h <;> cases h
  · exact ⟨readsOnly_refl _, rfl⟩
  · exact ⟨⟨1, by simp [State.withReader, i]⟩, rfl⟩
  · exact ⟨⟨1, by simp [State.withReader, i]⟩, rfl⟩

/-- R137: so does `read_bit`. -/
theorem readsOnly_readBit {s t : State} {r : Bool} (h : readBit s = some (r, t)) : readsOnly s t ∧ t.OUT = s.OUT := by
  by_cases h7 : s.RIDX = 7#3
  · rw [readBit_last h7, Option.map_eq_some_iff] at h
    obtain ⟨⟨b, u⟩, hu, e⟩ := h
    obtain ⟨reads, out⟩ := readsOnly_inRead hu
    cases e
    exact ⟨readsOnly_trans reads ⟨0, rfl⟩, out⟩
  · rw [readBit_inside h7] at h
    cases h
    exact ⟨⟨0, rfl⟩, rfl⟩

/-- R142: the descent reads bits, and emits at most one byte. -/
theorem readsOnly_descend (fuel : Nat) : ∀ {s t : State}, descend fuel s = .next t →
    readsOnly s t ∧ ∃ bs, bs.length ≤ 1 ∧ t.OUT = s.OUT ++ bs := by
  induction fuel with
  | zero => intro s t h; cases h
  | succ fuel ih =>
    intro s t h
    obtain ⟨_, rfl⟩ | ⟨r, u, d, hb, _, ends⟩ := descend_cases h
    · exact ⟨⟨0, rfl⟩, [], by simp⟩
    · obtain ⟨reads, out⟩ := readsOnly_readBit hb
      have moves : readsOnly s { u with DSTATE := .descending, DNODE := d } := readsOnly_trans reads ⟨0, rfl⟩
      rw [← out]
      obtain ⟨_, rfl⟩ | ⟨_, hd⟩ := ends
      · exact ⟨readsOnly_trans moves ⟨0, rfl⟩, [d.setWidth 8], by simp⟩
      · obtain ⟨reads, bytes⟩ := ih hd
        exact ⟨readsOnly_trans moves reads, bytes⟩

/-- R140: DOPEN takes the first token, and emits nothing. -/
theorem readsOnly_run_dopen {s t : State} (h : run .dopen s = .next t) : readsOnly s t ∧ t.OUT = s.OUT := by
  obtain ⟨_, e⟩ | ⟨b, u, _, hu, e⟩ := run_dopen_eq s <;> rw [e] at h <;> cases h
  · exact ⟨⟨0, rfl⟩, rfl⟩
  · obtain ⟨reads, out⟩ := readsOnly_inRead hu
    have cleared : readsOnly s { s with EOF := false } := ⟨0, rfl⟩
    exact ⟨readsOnly_trans (readsOnly_trans cleared reads) ⟨0, rfl⟩, out⟩

/-- R142: DSYM finds the end, or descends. -/
theorem readsOnly_run_dsym {s t : State} (h : run .dsym s = .next t) :
    readsOnly s t ∧ ∃ bs, bs.length ≤ 1 ∧ t.OUT = s.OUT ++ bs := by
  obtain ⟨_, _, e⟩ | ⟨_, e⟩ := run_dsym_eq s <;> rw [e] at h
  · cases h
    exact ⟨⟨0, rfl⟩, [], by simp⟩
  · have start : readsOnly s (descendStart s) ∧ (descendStart s).OUT = s.OUT := by
      unfold descendStart
      split <;> exact ⟨⟨0, rfl⟩, rfl⟩
    obtain ⟨reads, bytes⟩ := readsOnly_descend _ h
    rw [start.2] at bytes
    exact ⟨readsOnly_trans start.1 reads, bytes⟩

/-- R140, R142: where they run, DOPEN and DSYM read, and only DSYM emits, at most one byte. -/
theorem readsOnly_run {i : Instr} {s t : State} (hi : i = .dopen ∨ i = .dsym) (h : run i s = .next t) :
    readsOnly s t ∧ (∃ bs, bs.length ≤ 1 ∧ t.OUT = s.OUT ++ bs) ∧ (i = .dopen → t.OUT = s.OUT) := by
  rcases hi with rfl | rfl
  · obtain ⟨reads, out⟩ := readsOnly_run_dopen h
    exact ⟨reads, ⟨[], by simp [out]⟩, fun _ => out⟩
  · obtain ⟨reads, bytes⟩ := readsOnly_run_dsym h
    exact ⟨reads, bytes, nofun⟩

/-- Settles O49: ignored, refused by the phase, or run. -/
theorem readerCommandFrame : Obligations.ReaderCommandFrame := by
  intro s t i hi h
  obtain ⟨rfl, _⟩ | ⟨_, _, rfl⟩ | ⟨_, _, _, rfl⟩ | ⟨_, _, _, e⟩ := exec_cases h
  · simp at hi
  · exact ⟨sameTree_refl t, sameCodes_refl t, sameWriter_refl t, sameHost_refl t, rfl, ⟨0, rfl⟩, ⟨[], by simp⟩, fun _ => rfl,
      .inl (samePhase_refl t)⟩
  · exact ⟨sameTree_refl s, sameCodes_refl s, sameWriter_refl s, sameHost_refl s, rfl, ⟨0, rfl⟩, ⟨[], by simp⟩, fun _ => rfl,
      .inr ⟨rfl, sameReader_refl s, sameStreams_refl s⟩⟩
  · obtain ⟨reads, bytes, dopen⟩ := readsOnly_run hi e
    obtain ⟨tree, codes, writer, phase, host, draws, input⟩ := readsOnly_frame reads
    exact ⟨tree, codes, writer, host, draws, input, bytes, dopen, .inl phase⟩

end Sys2Proof.Machine

/-! SUPPORT. What the reader will return (44_decoder.md R136, R137): one read bit moves on in the bits of the session by one. -/

namespace Sys2Proof.Machine

/-! ## The bits that are left (R136, R137) -/

/-- R26: the reader always has a bit left in `RBUF`. -/
theorem length_unreadBits_pos (s : State) : 1 ≤ (unreadBits s).length := by
  simp [unreadBits, bitsOf]
  omega

/-- R137: `EOF` is 1 exactly where no bit is left before the end. -/
theorem eof_iff_bitsBeforeEnd (s : State) : s.EOF = true ↔ bitsBeforeEnd s = 0 := by
  have := length_unreadBits_pos s
  cases he : s.EOF
  · simp only [bitsBeforeEnd, he, Bool.false_eq_true, if_false, false_iff]
    omega
  · simp [bitsBeforeEnd, he]

/-- The tokens behind the first `End` (R44). -/
def tokensAfterEnd : List Token → List Token
  | [] => []
  | .endMark :: rest => rest
  | .byte _ :: rest => tokensAfterEnd rest

/-- What the reader leaves in `IN` once it has found the end of the session (R136). -/
def State.afterSession (s : State) : List Token := if s.EOF then s.IN else tokensAfterEnd s.IN

/-- R44: behind the bytes of a session and its `End`. -/
theorem tokensAfterEnd_session (bytes : List Byte) (rest : List Token) :
    tokensAfterEnd (bytes.map .byte ++ .endMark :: rest) = rest := by
  induction bytes with
  | nil => rfl
  | cons b bytes ih => exact ih

/-- R44: the bytes of a session are those before its `End`. -/
theorem sessionBytes_session (bytes : List Byte) (rest : List Token) :
    sessionBytes (bytes.map .byte ++ .endMark :: rest) = bytes := by
  induction bytes with
  | nil => rfl
  | cons b bytes ih => exact congrArg (b :: ·) ih

/-- The reader of `t` is the reader of `s` after `n` more bits. -/
structure Advances (s : State) (n : Nat) (t : State) : Prop where
  future : ∀ j, futureBit t j = futureBit s (j + n)
  before : bitsBeforeEnd t = bitsBeforeEnd s - n
  ends : sessionEnds s → sessionEnds t
  after : t.afterSession = s.afterSession

theorem Advances.refl (s : State) : Advances s 0 s := ⟨fun _ => rfl, rfl, id, rfl⟩

theorem Advances.trans {s t u : State} {m n : Nat} (h : Advances s m t) (g : Advances t n u) : Advances s (m + n) u where
  future j := by rw [g.future, h.future, Nat.add_right_comm, Nat.add_assoc]
  before := by rw [g.before, h.before, Nat.sub_sub]
  ends := g.ends ∘ h.ends
  after := g.after.trans h.after

/-- R137: `EOF` becomes 1 with the last bit before the end. -/
theorem Advances.eof_iff {s t : State} {n : Nat} (h : Advances s n t) : t.EOF = true ↔ bitsBeforeEnd s ≤ n := by
  rw [eof_iff_bitsBeforeEnd, h.before, Nat.sub_eq_zero_iff_le]

/-- A read bit that leaves `EOF` and `End` as they are is the first of the bits that are left. -/
theorem advances_of_unreadBits_cons {s t : State} {r : Bool} (unread : unreadBits s = r :: unreadBits t)
    (eof : t.EOF = s.EOF) (ends : sessionEnds s → sessionEnds t) (after : t.afterSession = s.afterSession) :
    r = futureBit s 0 ∧ Advances s 1 t := by
  refine ⟨by simp [futureBit, unread], fun j => by simp [futureBit, unread], ?_, ends, after⟩
  cases he : s.EOF <;> simp [bitsBeforeEnd, eof, he, unread]

/-- R136: a read bit that is the last before the end, or of the fill, leaves the 0 bits of the fill. -/
theorem advances_of_fill {s t : State} {r : Bool} (unread : unreadBits s = [r]) (eof : t.EOF = true)
    (fill : t.RBUF = 0#8) (idx : t.RIDX = 0#3) (after : t.afterSession = s.afterSession) :
    r = futureBit s 0 ∧ Advances s 1 t := by
  refine ⟨by simp [futureBit, unread], fun j => ?_, ?_, fun _ => .inl eof, after⟩
  · have zeros : unreadBits t = List.replicate 8 false := by
      simp [unreadBits, eof, fill, idx, bitsOf]
    simp only [futureBit, unread, zeros, List.getElem?_replicate]
    split <;> rfl
  · cases he : s.EOF <;> simp [bitsBeforeEnd, eof, he, unread]

/-- R42: the bits of a byte from one of them on. -/
theorem drop_bitsOf (b : Byte) {i : Nat} (h : i < 8) :
    (bitsOf b).drop i = b.getLsbD i :: (bitsOf b).drop (i + 1) := by
  rw [List.drop_eq_getElem_cons (by simpa [bitsOf] using h)]
  simp [bitsOf]

/-- R137: `read_bit` returns the next bit of the session and moves on by one. -/
theorem advances_readBit {s t : State} {r : Bool} (h : readBit s = some (r, t)) :
    r = futureBit s 0 ∧ Advances s 1 t := by
  by_cases h7 : s.RIDX = 7#3
  · have last : (bitsOf s.RBUF).drop s.RIDX.toNat = [s.RBUF.getLsbD 7] := by rw [h7]; rfl
    rw [readBit_last h7, Option.map_eq_some_iff] at h
    obtain ⟨⟨b, u⟩, hu, e⟩ := h
    obtain ⟨he, i⟩ | ⟨_, _, i⟩ | ⟨b, rest, he, hi, i⟩ | ⟨rest, he, hi, i⟩ := inRead_cases s <;> rw [i] at hu <;>
      cases hu <;> cases e
    · exact advances_of_fill (by simp [unreadBits, last, he]) he rfl rfl rfl
    · refine advances_of_unreadBits_cons ?_ rfl ?_ ?_
      · simp [unreadBits, last, he, hi, sessionBytes]
      · simp [sessionEnds, hi]
      · simp [State.afterSession, he, hi, tokensAfterEnd]
    · refine advances_of_fill ?_ rfl rfl rfl ?_
      · simp [unreadBits, last, he, hi, sessionBytes]
      · simp [State.afterSession, he, hi, tokensAfterEnd]
  · have next : (s.RIDX + 1#3).toNat = s.RIDX.toNat + 1 := by bv_omega
    rw [readBit_inside h7] at h
    cases h
    refine advances_of_unreadBits_cons ?_ rfl id rfl
    simp [unreadBits, next, drop_bitsOf s.RBUF (i := s.RIDX.toNat) (by omega)]

/-- R137: where `read_bit` holds, the session has no end yet and one bit is left. -/
theorem unread_of_readBit_none {s : State} (h : readBit s = none) : ¬ sessionEnds s ∧ bitsBeforeEnd s = 1 := by
  obtain ⟨h7, he, hi⟩ := (readBit_eq_none s).1 h
  constructor
  · simp [sessionEnds, he, hi]
  · simp [bitsBeforeEnd, unreadBits, h7, he, hi, sessionBytes, bitsOf]

/-- Settles O40: a read bit is the first of the bits that are left. -/
theorem readBitTakesNextBit : Obligations.ReadBitTakesNextBit := by
  refine fun s => ⟨readBit_eq_none s, fun r t h => ?_⟩
  obtain ⟨bit, moves⟩ := advances_readBit h
  obtain ⟨frame, _⟩ := readBit_eq h
  exact ⟨bit, moves.future, moves.before, fun ends => ⟨moves.ends ends, moves.eof_iff⟩, frame⟩

end Sys2Proof.Machine

/-! SUPPORT. DOPEN, and a DSYM that does not descend (44_decoder.md R140, R142, R143). -/

namespace Sys2Proof.Machine

/-! ## DOPEN (R140) -/

/-- R64: a DOPEN its phase admits runs. -/
theorem exec_dopen_of_tree {s : State} (hp : s.PHASE = .built ∨ s.PHASE = .assigned) :
    exec .dopen s = run .dopen s :=
  exec_of_ok (by simp) (by rcases hp with hp | hp <;> simp [hp]) (by simpa [phaseOk] using hp)

/-- R140: DOPEN opens the reader on the token the read attempt takes. -/
theorem run_dopen_of_read {s u : State} {b : Byte} (hi : s.IN ≠ []) (hu : inRead { s with EOF := false } = some (b, u)) :
    run .dopen s = .next (openReader b u) := by
  obtain ⟨empty, _⟩ | ⟨b', u', _, hu', e⟩ := run_dopen_eq s
  · exact absurd empty hi
  · cases hu.symm.trans hu'
    exact e

/-- R140: DOPEN on a byte. -/
theorem exec_dopen_of_byte {s : State} (hp : s.PHASE = .built ∨ s.PHASE = .assigned) {b : Byte} {rest : List Token}
    (hi : s.IN = .byte b :: rest) : exec .dopen s = .next
      { s with IN := rest, EOF := false, RBUF := b, RIDX := 0#3, RD_OPEN := true, END := false,
               DSTATE := .atRoot, DSYM_VALID := false, BUSY := false } :=
  (exec_dopen_of_tree hp).trans
    (run_dopen_of_read (by simp [hi]) (inRead_of_byte (s := { s with EOF := false }) rfl hi))

/-- Settles O41: by the phase and the head of `IN`. -/
theorem dopenOpensReader : Obligations.DopenOpensReader := by
  refine fun s => ⟨fun hp => ⟨fun hi => ?_, fun b rest => exec_dopen_of_byte hp, fun rest hi => ?_⟩, fun hp => ?_⟩
  · obtain ⟨_, e⟩ | ⟨_, _, some, _⟩ := run_dopen_eq s
    · exact (exec_dopen_of_tree hp).trans e
    · exact absurd hi some
  · exact (exec_dopen_of_tree hp).trans
      (run_dopen_of_read (by simp [hi]) (inRead_of_endMark (s := { s with EOF := false }) rfl hi))
  · have bad : exec .dopen s = .next (raiseFault s .sequence (sequenceInfo s.PHASE .dopen)) :=
      (exec_eq_guarded (by simp) s).trans (guarded_of_bad (by simp [hp]) (by simp [hp, phaseOk]))
    exact ⟨_, bad, rfl⟩

/-! ## DSYM at the end, and on an empty `IN` (R142) -/

/-- R142: DSYM at the root finds the end where `EOF = 1`. -/
theorem run_dsym_at_end {s : State} (hd : s.DSTATE = .atRoot) (he : s.EOF = true) :
    run .dsym s = .next (endOfStream s) := by
  obtain ⟨_, _, e⟩ | ⟨before, _⟩ := run_dsym_eq s
  · exact e
  · exact absurd ⟨hd, he⟩ before

/-- Settles O43: the end is found at the start of a symbol. -/
theorem dsymFindsTheEnd : Obligations.DsymFindsTheEnd := fun _ hp ho hd he =>
  (exec_dsym_of_open hp ho).trans (run_dsym_at_end hd he)

/-- R47, R142: a DSYM whose first bit is not there holds where it starts. -/
theorem exec_dsym_of_hold {s : State} (hp : s.PHASE = .built ∨ s.PHASE = .assigned) (ho : s.RD_OPEN = true)
    (he : s.EOF = false) (hr : readBit (descendStart s) = none) : exec .dsym s = .next (hold (descendStart s)) :=
  (exec_dsym_of_open hp ho).trans ((run_dsym_before_end he).trans (descend_of_hold hr _))

/-- Settles O45: the reader holds before its first bit, at the root or where the descent stands. -/
theorem dsymHoldsOnEmptyInput : Obligations.DsymHoldsOnEmptyInput := by
  intro s hp ho he h7 hi
  constructor <;> intro hd
  · have start : descendStart s = { s with DNODE := s.ROOT } := by simp [descendStart, hd]
    have none : readBit (descendStart s) = none := (readBit_eq_none _).2 (by simp [start, h7, he, hi])
    rw [exec_dsym_of_hold hp ho he none, start]
    rfl
  · have start : descendStart s = s := by simp [descendStart, hd]
    have none : readBit (descendStart s) = none := (readBit_eq_none _).2 (by simp [start, h7, he, hi])
    rw [exec_dsym_of_hold hp ho he none, start]
    rfl

/-! ## `END` is sticky (R143) -/

/-- R121: a command that is neither CLEAR nor of the reader leaves the reader alone. -/
theorem exec_other_sameReader {s t : State} {i : Instr} (hc : i ≠ .clear) (ho : i ≠ .dopen) (hd : i ≠ .dsym)
    (h : exec i s = .next t) : sameReader s t := by
  cases i with
  | nop =>
    obtain ⟨hi, _⟩ | ⟨_, _, rfl⟩ | ⟨_, _, _, rfl⟩ | ⟨_, _, _, e⟩ := exec_cases h
    · cases hi
    · exact sameReader_refl t
    · exact sameReader_refl s
    · cases e
      exact sameReader_refl s
  | clear => exact absurd rfl hc
  | dopen => exact absurd rfl ho
  | dsym => exact absurd rfl hd
  | train b =>
    obtain ⟨_, reader, _⟩ := treeCommandFrame s t _ (.inl ⟨b, rfl⟩) h
    exact reader
  | build =>
    obtain ⟨_, reader, _⟩ := treeCommandFrame s t _ (.inr (.inl rfl)) h
    exact reader
  | assign =>
    obtain ⟨_, reader, _⟩ := treeCommandFrame s t _ (.inr (.inr rfl)) h
    exact reader
  | enc b =>
    obtain ⟨_, _, reader, _⟩ := writerCommandFrame s t _ (.inl ⟨b, rfl⟩) h
    exact reader
  | flush =>
    obtain ⟨_, _, reader, _⟩ := writerCommandFrame s t _ (.inr rfl) h
    exact reader

/-- R142: a DSYM at the end, wherever it is admitted, leaves the end found and the streams as they are. -/
theorem exec_dsym_at_end {s t : State} (hd : s.DSTATE = .atRoot) (he : s.EOF = true) (h : exec .dsym s = .next t) :
    t = { s with END := t.END, DSYM_VALID := t.DSYM_VALID, BUSY := t.BUSY, PHASE := t.PHASE, ERR := t.ERR,
                 ERRINFO := t.ERRINFO } ∧ (s.END = true → t.END = true) := by
  obtain ⟨hi, _⟩ | ⟨_, _, rfl⟩ | ⟨_, _, _, rfl⟩ | ⟨_, _, _, e⟩ := exec_cases h
  · cases hi
  · exact ⟨rfl, id⟩
  · exact ⟨rfl, id⟩
  · rw [run_dsym_at_end hd he] at e
    cases e
    exact ⟨rfl, fun _ => rfl⟩

/-- Settles O44: DSYM finds the end again, and the other commands leave the reader alone. -/
theorem endIsSticky : Obligations.EndIsSticky := by
  intro s t i hend heof hd ho hc h
  by_cases hi : i = .dsym
  · subst hi
    obtain ⟨frame, sticky⟩ := exec_dsym_at_end hd heof h
    rw [frame]
    exact ⟨sticky hend, heof, hd, fun _ => ⟨rfl, rfl⟩⟩
  · obtain ⟨_, _, eof, _, end_, dstate, _⟩ := exec_other_sameReader hc ho hi h
    exact ⟨end_.trans hend, eof.trans heof, dstate.trans hd, fun e => absurd e hi⟩

end Sys2Proof.Machine

/-! SUPPORT. The descent along a path (44_decoder.md R141, R142): where the next bits of the session are the path of a leaf, DSYM
emits its byte. -/

namespace Sys2Proof.Machine

/-! ## The next bits of the session -/

/-- The next `n` bits of the session, those of the fill included (R136). -/
def nextBits (s : State) (n : Nat) : List Bool := (List.range n).map (futureBit s)

@[simp] theorem length_nextBits (s : State) (n : Nat) : (nextBits s n).length = n := by simp [nextBits]

/-- Bits that are those of the session one by one are its next bits. -/
theorem nextBits_eq_of_getElem? {s : State} {p : List Bool} (h : ∀ j, j < p.length → p[j]? = some (futureBit s j)) :
    nextBits s p.length = p := by
  refine List.ext_getElem (by simp) fun j _ hj => ?_
  have bit := h j hj
  rw [List.getElem?_eq_getElem hj, Option.some_inj] at bit
  simp [nextBits, bit]

/-- The bits after the first `m` are those after `m` bits were taken. -/
theorem Advances.nextBits_add {s t : State} {m : Nat} (h : Advances s m t) (n : Nat) :
    nextBits s (m + n) = nextBits s m ++ nextBits t n := by
  simp only [nextBits, List.range_add, List.map_append, List.map_map]
  refine congrArg _ (List.map_congr_left fun j _ => ?_)
  rw [h.future, Nat.add_comm]
  rfl

/-- Where the next bits are those of `p` and then those of `q`, the bits after `p` are those of `q`. -/
theorem Advances.nextBits_append {s t : State} {p q : List Bool} (h : Advances s p.length t)
    (bits : nextBits s (p ++ q).length = p ++ q) : nextBits t q.length = q := by
  rw [List.length_append, h.nextBits_add] at bits
  exact (List.append_inj bits (by simp)).2

/-- Where the next bits are those of `p` and then those of `q`, they are those of `p`. -/
theorem nextBits_of_append {s : State} {p q : List Bool} (bits : nextBits s (p ++ q).length = p ++ q) :
    nextBits s p.length = p := by
  have first := congrArg (List.take p.length) bits
  rwa [nextBits, ← List.map_take, List.take_range, List.length_append, Nat.min_eq_left (by omega),
    List.take_left' rfl] at first

/-- The first of the next bits. -/
theorem futureBit_zero_of_nextBits {s : State} {r : Bool} {p : List Bool}
    (bits : nextBits s (r :: p).length = r :: p) : futureBit s 0 = r := by
  simpa [nextBits] using nextBits_of_append (p := [r]) bits

/-! ## Leaves and paths (R90, R141) -/

theorem isLeaf_leafOf (b : Byte) : isLeaf (leafOf b) = true :=
  (isLeaf_iff _).2 (by rw [leafOf_toNat]; exact b.isLt)

theorem setWidth_leafOf (b : Byte) : (leafOf b).setWidth 8 = b := by simp [leafOf]

/-- A node that a path goes on from is no leaf. -/
theorem isLeaf_of_follow_cons {s : State} {d h : Handle} {r : Bool} {p : List Bool}
    (path : follow s d (r :: p) = some h) : isLeaf d = false := by
  rw [isLeaf_eq_false_iff]
  by_contra leaf
  rw [follow_leaf s (by omega)] at path
  simp at path

/-- The paths of two states with the same links are the same (R141). -/
theorem follow_of_sameLinks {s t : State} (hl : t.NLEFT = s.NLEFT) (hr : t.NRIGHT = s.NRIGHT) (n : Handle)
    (p : List Bool) : follow t n p = follow s n p := by
  have child (m : Handle) (b : Bool) : t.child? m b = s.child? m b := by
    simp [State.child?, State.nleft, State.nright, hl, hr]
  induction p generalizing n with
  | nil => rfl
  | cons b p ih => simp only [follow, child, ih]

/-! ## The descent (R142) -/

/-- The bits a path of `n` edges takes are there: the session has its end, or more bits are left before it (R137). -/
def bitsAreThere (s : State) (n : Nat) : Prop := sessionEnds s ∨ n < bitsBeforeEnd s

theorem Advances.bitsAreThere {s t : State} {m n : Nat} (h : Advances s m t) (there : bitsAreThere s (m + n)) :
    bitsAreThere t n := by
  refine there.imp h.ends fun lt => ?_
  rw [h.before]
  omega

/-- R137: a bit that is there is read. -/
theorem exists_readBit {s : State} {n : Nat} (hn : 1 ≤ n) (there : bitsAreThere s n) :
    ∃ t, readBit s = some (futureBit s 0, t) ∧ Advances s 1 t := by
  cases hr : readBit s with
  | none =>
    obtain ⟨noEnd, one⟩ := unread_of_readBit_none hr
    rcases there with ends | more
    · exact absurd ends noEnd
    · omega
  | some q =>
    obtain ⟨r, t⟩ := q
    obtain ⟨rfl, moves⟩ := advances_readBit hr
    exact ⟨t, rfl, moves⟩

/-- What a DSYM that emits the byte `b` after `n` bits leaves (R142): only the reader and the streams change. -/
structure Emits (s : State) (n : Nat) (b : Byte) (t : State) : Prop where
  moves : Advances s n t
  frame : t = { s with RBUF := t.RBUF, RIDX := t.RIDX, EOF := t.EOF, IN := t.IN, OUT := s.OUT ++ [b], DSYM := b,
                       DSYM_VALID := true, DSTATE := .atRoot, DNODE := leafOf b, BUSY := false }

/-- R141, R142: the descent from a node follows the bits of a path to its leaf. -/
theorem descend_path {b : Byte} (p : List Bool) : ∀ {s : State} {fuel : Nat}, 1 ≤ p.length → p.length ≤ fuel →
    follow s s.DNODE p = some (leafOf b) → bitsAreThere s p.length → nextBits s p.length = p →
    ∃ t, descend fuel s = .next t ∧ Emits s p.length b t := by
  induction p with
  | nil => exact fun h => absurd h (by simp)
  | cons r p ih =>
    intro s fuel _ hfuel path there bits
    obtain ⟨fuel, rfl⟩ : ∃ f, fuel = f + 1 := ⟨fuel - 1, by simp at hfuel; omega⟩
    obtain ⟨u, hr, moves⟩ := exists_readBit (by simp) there
    obtain ⟨frame, _⟩ := readBit_eq hr
    rw [futureBit_zero_of_nextBits bits] at hr
    cases hc : s.child? s.DNODE r with
    | none => simp [follow, hc] at path
    | some d =>
      rw [follow_cons_of_child hc] at path
      have child : u.child? u.DNODE r = some d := by rw [frame]; exact hc
      rw [descend_of_child hr child]
      cases p with
      | nil =>
        obtain rfl : d = leafOf b := Option.some.inj path
        rw [isLeaf_leafOf, if_pos rfl, setWidth_leafOf]
        refine ⟨_, rfl, { moves with }, ?_⟩
        rw [frame]
        rfl
      | cons r' p =>
        have count : (r :: r' :: p).length = 1 + (r' :: p).length := Nat.add_comm _ 1
        rw [isLeaf_of_follow_cons path, if_neg (by simp)]
        rw [count] at there ⊢
        obtain ⟨t, e, emits⟩ := ih (s := { u with DSTATE := .descending, DNODE := d }) (by simp) (by simpa using hfuel)
          ((follow_of_sameLinks (s := s) (by rw [frame]) (by rw [frame]) d _).trans path) (moves.bitsAreThere there)
          (moves.nextBits_append (p := [r]) bits)
        refine ⟨t, e, moves.trans { emits.moves with }, emits.frame.trans ?_⟩
        rw [frame]

/-- R141, R142: a DSYM that starts before the end emits the byte of the leaf to which the next bits lead. The path may take all
the fuel that does not depend on `IN`. -/
theorem exec_dsym_path {s : State} {p : List Bool} {b : Byte} (hp : s.PHASE = .built ∨ s.PHASE = .assigned)
    (ho : s.RD_OPEN = true) (hd : s.DSTATE = .atRoot) (he : s.EOF = false) (there : bitsAreThere s p.length)
    (path : leafPath s p b) (pos : 1 ≤ p.length) (short : p.length ≤ 512) (bits : nextBits s p.length = p) :
    ∃ t, exec .dsym s = .next t ∧ Emits s p.length b t := by
  have start : descendStart s = { s with DNODE := s.ROOT } := by simp [descendStart, hd]
  have fromRoot : follow { s with DNODE := s.ROOT } s.ROOT p = some (leafOf b) :=
    (follow_of_sameLinks (by rfl) (by rfl) s.ROOT p).trans path
  rw [exec_dsym_of_open hp ho, run_dsym_before_end he, start]
  obtain ⟨t, e, emits⟩ := descend_path (s := { s with DNODE := s.ROOT }) (fuel := descendFuel s) p pos
    (by simp only [descendFuel]; omega) fromRoot there bits
  exact ⟨t, e, { emits.moves with }, emits.frame⟩

/-- Settles O42: the next bits lead from the root to the leaf. -/
theorem dsymDecodesOnePath : Obligations.DsymDecodesOnePath := by
  intro s p b hp ho hd he there path pos short bits
  have there : bitsAreThere s p.length := there.imp .inr fun more => by simpa [bitsBeforeEnd, he] using more
  obtain ⟨t, e, moves, frame⟩ := exec_dsym_path hp ho hd he there path pos (by omega) (nextBits_eq_of_getElem? bits)
  exact ⟨t, e, frame, moves.future, moves.before, moves.eof_iff, fun marked => moves.ends (.inr marked)⟩

end Sys2Proof.Machine

/-! SUPPORT. Symbols decoded one after the other (44_decoder.md R144, R145): a read session of the bytes of a write session. -/

namespace Sys2Proof.Machine

/-! ## Symbols -/

/-- A symbol that the decoder reads: the path it takes and the byte it emits (R141). -/
abbrev Symbol := List Bool × Byte

/-- The bits of symbols one after the other (R43). -/
def symbolBits (syms : List Symbol) : List Bool := (syms.map Prod.fst).flatten

/-- The bytes of symbols, in order. -/
def symbolBytes (syms : List Symbol) : List Byte := syms.map Prod.snd

@[simp] theorem symbolBits_nil : symbolBits [] = [] := rfl

@[simp] theorem symbolBits_cons (x : Symbol) (syms : List Symbol) :
    symbolBits (x :: syms) = x.1 ++ symbolBits syms := rfl

/-- A symbol of the tree of `s`: its path leads from the root to the leaf of its byte, within the fuel of DSYM. -/
structure IsSymbol (s : State) (x : Symbol) : Prop where
  path : leafPath s x.1 x.2
  pos : 1 ≤ x.1.length
  short : x.1.length ≤ 512

/-- A symbol of a tree is one of every tree with the same links. -/
theorem IsSymbol.of_sameLinks {s t : State} {x : Symbol} (h : IsSymbol s x) (left : t.NLEFT = s.NLEFT)
    (right : t.NRIGHT = s.NRIGHT) (root : t.ROOT = s.ROOT) : IsSymbol t x where
  path := by rw [leafPath, root, follow_of_sameLinks left right]; exact h.path
  pos := h.pos
  short := h.short

/-- A DSYM that starts here decodes a symbol or finds the end: the reader is open on a session that has its `End`, and the end
has not been found (R142). -/
structure AtSymbol (s : State) : Prop where
  phase : s.PHASE = .built ∨ s.PHASE = .assigned
  opened : s.RD_OPEN = true
  atRoot : s.DSTATE = .atRoot
  ends : sessionEnds s
  notFound : s.END = false

/-- What DSYM commands that decode the symbols `syms` leave: only the reader and the streams change, and `DSYM` holds the
last byte emitted. -/
structure Decodes (s : State) (syms : List Symbol) (t : State) : Prop where
  moves : Advances s (symbolBits syms).length t
  frame : t = { s with RBUF := t.RBUF, RIDX := t.RIDX, EOF := t.EOF, IN := t.IN, OUT := s.OUT ++ symbolBytes syms,
                       DSYM := (symbolBytes syms).getLastD s.DSYM, DSYM_VALID := s.DSYM_VALID || !syms.isEmpty,
                       DNODE := t.DNODE, BUSY := t.BUSY }

theorem Decodes.nil (s : State) : Decodes s [] s := ⟨.refl s, by simp [symbolBytes]⟩

/-- One DSYM that emits a byte, and then the others. -/
theorem Decodes.cons {s t u : State} {x : Symbol} {syms : List Symbol} (root : s.DSTATE = .atRoot)
    (h : Emits s x.1.length x.2 t) (g : Decodes t syms u) : Decodes s (x :: syms) u where
  moves := by
    rw [symbolBits_cons, List.length_append]
    exact h.moves.trans g.moves
  frame := by
    rw [g.frame, h.frame, root]
    simp only [symbolBytes, List.map_cons, List.append_assoc, List.singleton_append, List.getLastD_cons,
      List.isEmpty_cons, Bool.not_false, Bool.or_true, Bool.true_or]

/-- After symbols the reader stands at a symbol again. -/
theorem Decodes.atSymbol {s t : State} {syms : List Symbol} (h : Decodes s syms t) (hs : AtSymbol s) : AtSymbol t := by
  have ends := h.moves.ends hs.ends
  rw [h.frame] at ends ⊢
  exact ⟨hs.phase, hs.opened, hs.atRoot, ends, hs.notFound⟩

/-- A command that completes, and then the others. -/
theorem runCommands_cons {i : Instr} {is : List Instr} {s t : State} (h : exec i s = .next t) :
    runCommands (i :: is) s = runCommands is t := by
  simp only [runCommands, h]

theorem dsymN_add (m n : Nat) : Pseudo.dsymN (m + n) = Pseudo.dsymN m ++ Pseudo.dsymN n :=
  List.replicate_add m n _

/-- R142: where the next bits are those of symbols, and each symbol starts before the end, DSYM commands decode them. -/
theorem runCommands_dsymN (syms : List Symbol) : ∀ {s : State}, AtSymbol s → (∀ x ∈ syms, IsSymbol s x) →
    nextBits s (symbolBits syms).length = symbolBits syms →
    (∀ i < syms.length, (symbolBits (syms.take i)).length < bitsBeforeEnd s) →
    ∃ t, runCommands (Pseudo.dsymN syms.length) s = .next t ∧ Decodes s syms t := by
  induction syms with
  | nil => exact fun {s} _ _ _ _ => ⟨s, rfl, .nil s⟩
  | cons x syms ih =>
    intro s hs symbols bits starts
    have begins : s.EOF = false := by
      rw [Bool.eq_false_iff, Ne, eof_iff_bitsBeforeEnd]
      exact Nat.ne_of_gt (starts 0 (by simp))
    obtain ⟨path, pos, short⟩ := symbols x List.mem_cons_self
    obtain ⟨u, first, emits⟩ :=
      exec_dsym_path hs.phase hs.opened hs.atRoot begins (.inl hs.ends) path pos short (nextBits_of_append bits)
    have one : Decodes s [x] u := .cons hs.atRoot emits (.nil u)
    have symbols' (y : Symbol) (hy : y ∈ syms) : IsSymbol u y :=
      (symbols y (List.mem_cons_of_mem x hy)).of_sameLinks (by rw [emits.frame]) (by rw [emits.frame]) (by rw [emits.frame])
    have starts' (i : ℕ) (hi : i < syms.length) : (symbolBits (syms.take i)).length < bitsBeforeEnd u := by
      have start := starts (i + 1) (by simpa using hi)
      rw [List.take_succ_cons, symbolBits_cons, List.length_append] at start
      rw [emits.moves.before]
      omega
    obtain ⟨t, others, decodes⟩ := ih (one.atSymbol hs) symbols' (emits.moves.nextBits_append bits) starts'
    exact ⟨t, (runCommands_cons first).trans others, .cons hs.atRoot emits decodes⟩

/-! ## A session that the writer wrote (R43, R144) -/

/-- R42: bit `j` of the bits of a byte sequence is bit `j mod 8` of its byte `j / 8`. -/
theorem getD_bitsOf_flatten (bytes : List Byte) : ∀ j : ℕ,
    ((bytes.map bitsOf).flatten)[j]?.getD false = (bytes[j / 8]?.getD 0#8).getLsbD (j % 8) := by
  induction bytes with
  | nil => simp
  | cons b bytes ih =>
    intro j
    have length : (bitsOf b).length = 8 := by simp [bitsOf]
    rw [List.map_cons, List.flatten_cons]
    by_cases hj : j < 8
    · have byte : j / 8 = 0 := by omega
      rw [List.getElem?_append_left (by omega), byte, Nat.mod_eq_of_lt hj]
      simp [bitsOf, hj]
    · have byte : j / 8 = (j - 8) / 8 + 1 := by omega
      have index : j % 8 = (j - 8) % 8 := by omega
      rw [List.getElem?_append_right (by omega), length, ih, byte, index, List.getElem?_cons_succ]

/-- R42: each byte has 8 bits. -/
theorem length_bitsOf_flatten (bytes : List Byte) : ((bytes.map bitsOf).flatten).length = 8 * bytes.length := by
  induction bytes with
  | nil => rfl
  | cons b bytes ih =>
    simp only [List.map_cons, List.flatten_cons, List.length_append, ih, List.length_cons]
    simp [bitsOf]
    omega

/-- A reader `u` with the tree of `s` and, in `IN`, the bytes that a write session of `s` made of the payload, their `End` and
what is behind it. -/
structure CodecSession (s u : State) (payload bytes : List Byte) (rest : List Token) : Prop where
  codes : codesArePaths s
  phase : u.PHASE = .built ∨ u.PHASE = .assigned
  left : u.NLEFT = s.NLEFT
  right : u.NRIGHT = s.NRIGHT
  root : u.ROOT = s.ROOT
  input : u.IN = bytes.map .byte ++ .endMark :: rest
  length : bytes.length = (payloadBits s payload).length / 8 + 1
  bit : ∀ j : ℕ, ((bytes.map bitsOf).flatten)[j]?.getD false = (payloadBits s payload)[j]?.getD false

/-- R124, R125: the bytes of a write session are those of its bits, and 0 bits after them. -/
theorem bits_of_encode {s t : State} {payload bytes : List Byte} (hp : s.PHASE = .assigned) (buf : s.WBUF = 0#8)
    (idx : s.WIDX = 0#3) (run : runCommands (Pseudo.encode payload) s = .next t) (out : t.OUT = s.OUT ++ bytes) :
    bytes.length = (payloadBits s payload).length / 8 + 1 ∧
      ∀ j : ℕ, ((bytes.map bitsOf).flatten)[j]?.getD false = (payloadBits s payload)[j]?.getD false := by
  obtain ⟨_, t', bytes', _, _, run', rfl, length, bit, pad, _⟩ := writeSessionBytes s payload hp buf idx
  cases run.symm.trans run'
  obtain rfl : bytes' = bytes := List.append_cancel_left out
  refine ⟨length, fun j => ?_⟩
  by_cases hj : j < 8 * bytes'.length
  · rw [getD_bitsOf_flatten, bit j hj]
  · rw [List.getElem?_eq_none (by rw [length_bitsOf_flatten]; omega), List.getElem?_eq_none (by omega)]

/-- R111: the symbol of a byte: its code. -/
def symbolOf (s : State) (b : Byte) : Symbol := (codeBits s b, b)

theorem symbolBits_symbolOf (s : State) (payload : List Byte) :
    symbolBits (payload.map (symbolOf s)) = payloadBits s payload := by
  simp [symbolBits, payloadBits, symbolOf, Function.comp_def]

theorem symbolBytes_symbolOf (s : State) (payload : List Byte) : symbolBytes (payload.map (symbolOf s)) = payload := by
  simp [symbolBytes, symbolOf, Function.comp_def]

/-- R113: every byte's code is the path to its leaf. -/
theorem isSymbol_symbolOf {s : State} (codes : codesArePaths s) (b : Byte) : IsSymbol s (symbolOf s b) := by
  obtain ⟨p, path, pos, short, code⟩ := codes b
  rw [symbolOf, codeBits_eq_of_codeIs short code]
  exact ⟨path, pos, Nat.le_trans short (by decide)⟩

/-- What DOPEN on a session makes of it: the reader stands before the first bit of the payload. -/
structure CodecSession.Opened (s u : State) (payload bytes : List Byte) (rest : List Token) (w : State) : Prop where
  atSymbol : AtSymbol w
  left : w.NLEFT = s.NLEFT
  right : w.NRIGHT = s.NRIGHT
  root : w.ROOT = s.ROOT
  future : ∀ j : ℕ, futureBit w j = (payloadBits s payload)[j]?.getD false
  before : bitsBeforeEnd w = 8 * bytes.length
  after : w.afterSession = rest
  out : w.OUT = u.OUT

/-- R140: DOPEN on a session of the writer. -/
theorem CodecSession.exec_dopen {s u : State} {payload bytes : List Byte} {rest : List Token}
    (h : CodecSession s u payload bytes rest) :
    ∃ w, exec .dopen u = .next w ∧ CodecSession.Opened s u payload bytes rest w := by
  obtain ⟨_, phase, left, right, root, input, length, bit⟩ := h
  obtain ⟨b, bytes, rfl⟩ := List.exists_cons_of_length_eq_add_one length
  have unread : unreadBits (openReader b { u with EOF := false, IN := bytes.map .byte ++ .endMark :: rest }) =
      ((b :: bytes).map bitsOf).flatten := by
    simp [unreadBits, sessionBytes_session]
  refine ⟨_, exec_dopen_of_byte phase input, ?_⟩
  constructor
  case atSymbol => exact ⟨phase, rfl, rfl, .inr (by simp), rfl⟩
  case left => exact left
  case right => exact right
  case root => exact root
  case future => exact fun j => (congrArg (·[j]?.getD false) unread).trans (bit j)
  case before => exact (congrArg List.length unread).trans (length_bitsOf_flatten _)
  case after => exact tokensAfterEnd_session bytes rest
  case out => rfl

/-- R144: after DOPEN the DSYM commands decode the payload from its first byte on. -/
theorem CodecSession.decode {s u : State} {payload bytes : List Byte} {rest : List Token}
    (h : CodecSession s u payload bytes rest) {w : State} (hw : CodecSession.Opened s u payload bytes rest w) {n : Nat}
    (hn : n ≤ payload.length) : ∃ v, runCommands (Pseudo.dsymN n) w = .next v ∧
      Decodes w ((payload.take n).map (symbolOf s)) v := by
  have whole : nextBits w (payloadBits s payload).length = payloadBits s payload :=
    nextBits_eq_of_getElem? fun j hj => by rw [hw.future, List.getElem?_eq_getElem hj]; rfl
  have parts (m : ℕ) : payloadBits s payload = payloadBits s (payload.take m) ++ payloadBits s (payload.drop m) := by
    rw [payloadBits, payloadBits, payloadBits, ← List.flatten_append, ← List.map_append, List.take_append_drop]
  have symbols (x : Symbol) (hx : x ∈ (payload.take n).map (symbolOf s)) : IsSymbol w x := by
    obtain ⟨b, _, rfl⟩ := List.mem_map.1 hx
    exact (isSymbol_symbolOf h.codes b).of_sameLinks hw.left hw.right hw.root
  have bits : nextBits w (symbolBits ((payload.take n).map (symbolOf s))).length =
      symbolBits ((payload.take n).map (symbolOf s)) := by
    rw [symbolBits_symbolOf]
    exact nextBits_of_append (q := payloadBits s (payload.drop n)) (parts n ▸ whole)
  have starts (i : ℕ) (_ : i < ((payload.take n).map (symbolOf s)).length) :
      (symbolBits (((payload.take n).map (symbolOf s)).take i)).length < bitsBeforeEnd w := by
    have length := congrArg List.length (parts (min i n))
    rw [List.length_append] at length
    rw [← List.map_take, symbolBits_symbolOf, List.take_take, hw.before, h.length]
    omega
  have count : ((payload.take n).map (symbolOf s)).length = n := by simpa using hn
  have run := runCommands_dsymN _ hw.atSymbol symbols bits starts
  rwa [count] at run

/-- Settles O54: each DSYM decodes the next symbol of the payload. -/
theorem countedDecodeIsExact : Obligations.CountedDecodeIsExact := by
  intro s t u payload bytes rest n hp codes buf idx run out phase left right root input hn
  obtain ⟨length, bit⟩ := bits_of_encode hp buf idx run out
  have session : CodecSession s u payload bytes rest := ⟨codes, phase, left, right, root, input, length, bit⟩
  obtain ⟨w, dopen, hw⟩ := session.exec_dopen
  obtain ⟨v, dsyms, decodes⟩ := session.decode hw hn
  refine ⟨v, (runCommands_cons dopen).trans dsyms, ?_, (decodes.atSymbol hw.atSymbol).notFound, fun pos => ?_⟩
  · rw [decodes.frame, symbolBytes_symbolOf]
    exact congrArg (· ++ _) hw.out
  · have some : payload ≠ [] := by
      rintro rfl
      simp at hn
      omega
    have last : n - 1 < payload.length := by omega
    rw [decodes.frame, symbolBytes_symbolOf]
    refine ⟨by simp [some, Nat.ne_of_gt pos], ?_⟩
    rw [List.getLastD_eq_getLast?, List.getLast?_take, if_neg (Nat.ne_of_gt pos), List.getElem?_eq_getElem last]
    rfl

/-! ## The padding (R145) -/

/-- R141: from a node left edges lead to a leaf in one number of steps only. -/
theorem leftmost_depth_unique {s : State} {m l l' : Handle} {i j : Nat} (leaf : l.toNat < 256)
    (hi : follow s m (List.replicate i false) = some l) (hj : follow s m (List.replicate j false) = some l')
    (le : i ≤ j) : i = j := by
  obtain ⟨k, rfl⟩ := Nat.exists_eq_add_of_le le
  rw [List.replicate_add, follow_append, hi, Option.bind_some, follow_leaf s leaf] at hj
  cases k with
  | zero => rfl
  | succ k => cases hj

/-- R192: left edges alone lead to a leaf in at most 511 steps, since no node is passed twice. -/
theorem leftmost_depth_le {s : State} {h l : Handle} {n : Nat} (leaf : l.toNat < 256)
    (path : follow s h (List.replicate n false) = some l) : n ≤ 511 := by
  have passed (i : Fin (n + 1)) : ∃ m : Handle, follow s m (List.replicate (n - i) false) = some l := by
    have split : n = i + (n - i) := by omega
    rw [split, List.replicate_add, follow_append, Option.bind_eq_some_iff] at path
    obtain ⟨m, _, down⟩ := path
    exact ⟨m, down⟩
  choose node down using passed
  have distinct : Function.Injective fun i => (node i).toFin := by
    intro i j same
    have same : node i = node j := BitVec.toFin_inj.1 same
    have hj := down j
    rw [← same] at hj
    have depth : n - i.val = n - j.val := by
      rcases Nat.le_total (n - i) (n - j) with le | le
      · exact leftmost_depth_unique leaf (down i) hj le
      · exact (leftmost_depth_unique leaf hj (down i) le).symm
    exact Fin.ext (by omega)
  have count := Fintype.card_le_of_injective _ distinct
  simp only [Fintype.card_fin] at count
  omega

/-- R145: the leaf that left edges alone lead to is a symbol. -/
theorem isSymbol_leftmost {s : State} {z : Byte} {d : Nat} (path : leafPath s (List.replicate d false) z) (pos : 1 ≤ d) :
    IsSymbol s (List.replicate d false, z) := by
  have short : d ≤ 511 := leftmost_depth_le (by rw [leafOf_toNat]; exact z.isLt) path
  exact ⟨path, by simpa using pos, by simp; omega⟩

/-- R145: where only 0 bits are left, DSYM commands decode the all-zero leaf, as long as each starts before the end. -/
theorem decode_padding {w : State} {z : Byte} {d j : Nat} (hw : AtSymbol w)
    (symbol : IsSymbol w (List.replicate d false, z)) (zeros : ∀ i, futureBit w i = false)
    (starts : ∀ i < j, d * i < bitsBeforeEnd w) :
    ∃ v, runCommands (Pseudo.dsymN j) w = .next v ∧ Decodes w (List.replicate j (List.replicate d false, z)) v ∧
      Advances w (d * j) v := by
  have flat (i : ℕ) : symbolBits (List.replicate i (List.replicate d false, z)) = List.replicate (d * i) false := by
    simp [symbolBits, Nat.mul_comm]
  obtain ⟨v, run, decodes⟩ := runCommands_dsymN (List.replicate j (List.replicate d false, z)) hw
    (fun x hx => by
      rw [List.eq_of_mem_replicate hx]
      exact symbol)
    (nextBits_eq_of_getElem? fun i hi => by
      rw [flat, List.length_replicate] at hi
      simp [flat, zeros, hi])
    (fun i hi => by
      rw [List.length_replicate] at hi
      rw [List.take_replicate, Nat.min_eq_left (by omega), flat, List.length_replicate]
      exact starts i hi)
  have moves := decodes.moves
  rw [flat, List.length_replicate] at moves
  rw [List.length_replicate] at run
  exact ⟨v, run, decodes, moves⟩

/-- R142, R136: a DSYM at the end finds it, and leaves in `IN` what is behind the session. -/
theorem exec_dsym_finds_end {s : State} (hs : AtSymbol s) (he : s.EOF = true) :
    exec .dsym s = .next (endOfStream s) ∧ (endOfStream s).IN = s.afterSession :=
  ⟨dsymFindsTheEnd s hs.phase hs.opened hs.atRoot he, by simp [State.afterSession, he]⟩

/-- What DOPEN and the DSYM commands of the payload make of a session: the reader stands before the padding. -/
structure CodecSession.AtPadding (s u : State) (payload bytes : List Byte) (rest : List Token) (v : State) : Prop where
  atSymbol : AtSymbol v
  left : v.NLEFT = s.NLEFT
  right : v.NRIGHT = s.NRIGHT
  root : v.ROOT = s.ROOT
  zeros : ∀ i, futureBit v i = false
  before : bitsBeforeEnd v = 8 * bytes.length - (payloadBits s payload).length
  after : v.afterSession = rest
  out : v.OUT = u.OUT ++ payload

/-- R144: the whole payload is decoded, and 0 bits are left. -/
theorem CodecSession.decode_all {s u : State} {payload bytes : List Byte} {rest : List Token}
    (h : CodecSession s u payload bytes rest) :
    ∃ v, runCommands (.dopen :: Pseudo.dsymN payload.length) u = .next v ∧
      CodecSession.AtPadding s u payload bytes rest v := by
  obtain ⟨w, dopen, hw⟩ := h.exec_dopen
  obtain ⟨v, dsyms, decodes⟩ := h.decode hw le_rfl
  have moves := decodes.moves
  rw [List.take_length, symbolBits_symbolOf] at moves
  refine ⟨v, (runCommands_cons dopen).trans dsyms, ?_⟩
  constructor
  case atSymbol => exact decodes.atSymbol hw.atSymbol
  case left => rw [decodes.frame]; exact hw.left
  case right => rw [decodes.frame]; exact hw.right
  case root => rw [decodes.frame]; exact hw.root
  case zeros =>
    intro i
    rw [moves.future, hw.future, List.getElem?_eq_none (by omega)]
    rfl
  case before => rw [moves.before, hw.before]
  case after => rw [moves.after, hw.after]
  case out => rw [decodes.frame, List.take_length, symbolBytes_symbolOf, ← hw.out]

/-- Settles O55: a symbol of the padding starts before the end exactly while fewer than `ceil(P / d0)` of them are decoded. -/
theorem paddingDecodesToZeroLeaf : Obligations.PaddingDecodesToZeroLeaf := by
  intro s t u payload bytes rest z d0 hp codes buf idx run out phase left right root input path pos P spurious
  obtain ⟨length, bit⟩ := bits_of_encode hp buf idx run out
  obtain ⟨v, first, hv⟩ := CodecSession.decode_all ⟨codes, phase, left, right, root, input, length, bit⟩
  have ceil (i : ℕ) : spurious ≤ i ↔ P ≤ d0 * i := ceilDiv_le_iff_le_mul pos
  have symbol : IsSymbol v (List.replicate d0 false, z) :=
    (isSymbol_leftmost path pos).of_sameLinks hv.left hv.right hv.root
  have reach (j : ℕ) : runCommands (.dopen :: Pseudo.dsymN (payload.length + j)) u = runCommands (Pseudo.dsymN j) v := by
    rw [dsymN_add, ← List.cons_append]
    exact runCommands_append first
  have padding (j : ℕ) (hj : j ≤ spurious) : ∃ x, runCommands (Pseudo.dsymN j) v = .next x ∧ AtSymbol x ∧
      Advances v (d0 * j) x ∧ x.OUT = u.OUT ++ payload ++ List.replicate j z := by
    obtain ⟨x, pads, decodes, moves⟩ := decode_padding (j := j) hv.atSymbol symbol hv.zeros fun i hi => by
      rw [hv.before, ← Nat.not_le, ← ceil]
      omega
    refine ⟨x, pads, decodes.atSymbol hv.atSymbol, moves, ?_⟩
    rw [decodes.frame, ← hv.out]
    simp [symbolBytes]
  refine ⟨Nat.not_lt.1 fun none => ?_, fun j hj => ?_, ?_⟩
  · have none := (ceil 0).1 (by omega)
    omega
  · obtain ⟨x, pads, hx, _, emitted⟩ := padding j hj
    exact ⟨x, (reach j).trans pads, emitted, hx.notFound⟩
  · obtain ⟨x, pads, hx, past, emitted⟩ := padding spurious le_rfl
    have eof : x.EOF = true := past.eof_iff.2 (hv.before ▸ (ceil spurious).1 le_rfl)
    obtain ⟨found, left⟩ := exec_dsym_finds_end hx eof
    refine ⟨endOfStream x, (reach (spurious + 1)).trans ?_, emitted, rfl, left.trans (past.after.trans hv.after)⟩
    rw [dsymN_add, runCommands_append pads]
    exact runCommands_cons found

end Sys2Proof.Machine

/-! SUPPORT. The faults that the checks before a command raise, and phase FAULT (60_exceptions.md R164, R165, R167). -/

namespace Sys2Proof.Machine

/-! ## SEQUENCE (R164) -/

/-- R64: the checks refuse a command in every cell of the table marked `no`, and CLEAR has none. -/
theorem phaseOk_of_inadmissible {s : State} {i : Instr} (h : inadmissible s i) :
    i ≠ .clear ∧ phaseOk i s.PHASE s.RD_OPEN = false := by
  cases i with
  | nop | clear => exact h.elim
  | train b | build | assign | enc b | flush => exact ⟨nofun, beq_eq_false_iff_ne.2 h⟩
  | dopen =>
    have train : s.PHASE = .train := h
    exact ⟨nofun, by rw [train]; rfl⟩
  | dsym =>
    refine ⟨nofun, ?_⟩
    rcases h with train | closed
    · rw [train]; rfl
    · rw [closed]; exact Bool.and_false _

/-- R164: the opcode stands in the low four bits of the fault information, the phase in bits 8 and 9, and 0 elsewhere. -/
theorem sequenceInfo_fields (p : Phase) (i : Instr) :
    (sequenceInfo p i).extractLsb' 0 4 = i.op ∧ (sequenceInfo p i).extractLsb' 4 4 = 0#4 ∧
      (sequenceInfo p i).extractLsb' 8 2 = p.bits ∧ (sequenceInfo p i).extractLsb' 10 6 = 0#6 := by
  unfold sequenceInfo
  generalize p.bits = x
  generalize i.op = o
  revert x o
  decide

/-- Settles O16: the checks refuse the command, and the information is made of the opcode and the phase. -/
theorem outOfPhaseRaisesSequence : Obligations.OutOfPhaseRaisesSequence := by
  intro s i hp bad
  obtain ⟨hi, refused⟩ := phaseOk_of_inadmissible bad
  obtain ⟨op, zero, phase, high⟩ := sequenceInfo_fields s.PHASE i
  have byPhase {p : Phase} (h : s.PHASE = p) : (sequenceInfo s.PHASE i).extractLsb' 8 2 = p.bits := h ▸ phase
  exact ⟨_, (exec_eq_guarded hi s).trans (guarded_of_bad hp refused), op, zero, phase, byPhase, byPhase, byPhase, high⟩

/-! ## ILLEGAL_COMMAND (R165) -/

/-- R63: an illegal word decodes to no command. -/
theorem decode_of_illegal {w : CmdWord} (h : CmdWord.legalEncoding w = false) : decode w = none :=
  (decodeTableWord_toNat w).symm.trans (decodeTableWord_of_illegal w h)

/-- R12: a step on a free port is the host's first action. -/
theorem step_of_idle {s : State} {a : HostAction} {q : List HostAction} (hb : s.BUSY = false) (hq : s.HOSTQ = a :: q) :
    step s = hostAct a { s with HOSTQ := q } := by
  simp only [step, hostStep, nextAction_idle hb hq]

/-- R165: outside phase FAULT the port takes an illegal word, and it is done with the fault. -/
theorem acceptWord_of_illegal {w : CmdWord} {s : State} (h : CmdWord.legalEncoding w = false) (hp : s.PHASE ≠ .fault) :
    acceptWord w s = .next (retire (raiseFault { s with CUR_CMD := w } .illegalCommand w)) := by
  rw [acceptWord_of_taken (.inl hp), executeWord_of_illegal (s := { s with CUR_CMD := w }) (decode_of_illegal h) hp]
  rfl

/-- Settles O17: the illegal word is the next action, and `BUSY` was 0 before the fault set it to 0. -/
theorem illegalWordFaults : Obligations.IllegalWordFaults := by
  intro s w q hb hp hq illegal
  have faults := acceptWord_of_illegal (s := { s with HOSTQ := q }) illegal hp
  refine ⟨_, (step_of_idle hb hq).trans faults, ?_⟩
  rw [hb]
  rfl

/-! ## Phase FAULT (R167) -/

/-- R81, R167: the word of CLEAR is executed in every phase. -/
theorem acceptWord_clear (s : State) :
    acceptWord CLEAR_WORD s = .next (retire (toReset { s with CUR_CMD := CLEAR_WORD })) := by
  have decoded : decode CLEAR_WORD = some .clear := decode_encode .clear
  rw [acceptWord_of_taken (.inr rfl), executeWord_of_decode decoded (.inr rfl)]
  rfl

/-- R16: a retired command leaves the reset values. -/
theorem hasResetValues_retire {s : State} (h : hasResetValues s) : hasResetValues (retire s) := by
  simpa [hasResetValues, State.nfreq] using h

/-- R167: of the host's actions on an idle core in phase FAULT only the word of CLEAR and reset leave the phase. -/
theorem hostAct_leaves_fault {a : HostAction} {s t : State} (hp : s.PHASE = .fault) (hb : s.BUSY = false)
    (h : hostAct a s = .next t) (ht : t.PHASE ≠ .fault) : a = .write CLEAR_WORD ∨ a = .reset := by
  cases a with
  | write w =>
    by_contra other
    have ignored : hostAct (.write w) s = .next s := acceptWord_of_fault hp (by simpa using other)
    rw [ignored] at h
    cases h
    exact ht hp
  | push tok =>
    have pushed : hostAct (.push tok) s = .next { s with IN := s.IN ++ [tok] } := by simp [hostAct, pushToken, hb]
    rw [pushed] at h
    cases h
    exact absurd hp ht
  | drain n | read a =>
    cases h
    exact absurd hp ht
  | reset => exact .inr rfl

/-- Settles O18: by the host's first action. -/
theorem faultPhaseIgnoresWords : Obligations.FaultPhaseIgnoresWords := by
  intro s hp hb
  refine ⟨fun w q hq hw => (step_of_idle hb hq).trans (acceptWord_of_fault hp hw), fun q hq => ?_, fun t h ht => ?_,
    fun i hi => (exec_eq_guarded hi s).trans (guarded_of_fault hp)⟩
  · rcases hq with hq | hq
    · exact ⟨_, (step_of_idle hb hq).trans (acceptWord_clear _), hasResetValues_retire (hasResetValues_toReset _),
        rfl, rfl, rfl⟩
    · exact ⟨_, step_of_idle hb hq, hasResetValues_toReset _, rfl, rfl, rfl⟩
  · cases hq : s.HOSTQ with
    | nil =>
      have waits : step s = .next s := by simp [step, hostStep, nextAction, hb, hq]
      rw [waits] at h
      cases h
      exact absurd hp ht
    | cons a q =>
      rw [step_of_idle hb hq] at h
      rcases hostAct_leaves_fault (s := { s with HOSTQ := q }) hp hb h ht with rfl | rfl
      · exact ⟨q, .inl rfl⟩
      · exact ⟨q, .inr rfl⟩

end Sys2Proof.Machine

/-! SUPPORT. A BUILD whose weights do not fit (60_exceptions.md R163): the merges before the one that faults, and what
it leaves. -/

namespace Sys2Proof.Machine

/-- The nodes `256 + k` and later are in `t` what they are in `s`. -/
def sameNodesFrom (k : Nat) (s t : State) : Prop :=
  ∀ j, k ≤ j → j < 255 → readAt t.NFREQ (256 + j) = readAt s.NFREQ (256 + j) ∧
    readAt t.NLEFT j = readAt s.NLEFT j ∧ readAt t.NRIGHT j = readAt s.NRIGHT j

theorem sameNodesFrom_trans {k : Nat} {s t u : State} (h : sameNodesFrom k s t) (g : sameNodesFrom k t u) :
    sameNodesFrom k s u := fun j hj hj' =>
  have ⟨hf, hl, hr⟩ := h j hj hj'
  have ⟨gf, gl, gr⟩ := g j hj hj'
  ⟨gf.trans hf, gl.trans hl, gr.trans hr⟩

/-- R92, R98: the floor step and heapify write no internal node. -/
theorem sameNodesFrom_startBuild (k : Nat) (s : State) : sameNodesFrom k s (startBuild s) := by
  intro j _ hj
  exact ⟨readAt_floorStep_internal s.NFREQ (by omega) (by omega), rfl, rfl⟩

/-- R99: merge `k` writes node `256 + k` only. -/
theorem sameNodesFrom_merged (k : Nat) (s : State) : sameNodesFrom (k + 1) s (merged k s) := by
  intro j hj _
  obtain ⟨nf, nl, nr, _⟩ := merged_fields k s
  rw [nf, nl, nr]
  exact ⟨readAt_writeAt_other _ _ (by omega), readAt_writeAt_other _ _ (by omega), readAt_writeAt_other _ _ (by omega)⟩

/-- R101: `n` merges from merge `k` on write no node from `256 + k + n` on. -/
theorem sameNodesFrom_mergeFrom {u : State} (n : Nat) : ∀ {k : Nat} {s : State},
    mergeFrom n k s = (u, false) → sameNodesFrom (k + n) s u := by
  induction n with
  | zero =>
    intro k s e
    cases e
    exact fun _ _ _ => ⟨rfl, rfl, rfl⟩
  | succ n ih =>
    intro k s e
    obtain ⟨_, e⟩ := mergeFrom_succ_completes e
    have first : sameNodesFrom (k + (n + 1)) s (merged k s) := fun j hj => sameNodesFrom_merged k s j (by omega)
    rw [show k + (n + 1) = k + 1 + n by omega] at first ⊢
    exact sameNodesFrom_trans first (ih e)

/-- R101, R163: merges of which one faults: `j` of them fit, and the sum of the next does not. -/
theorem mergeFrom_faults {v : State} (n : Nat) : ∀ {k : Nat} {s : State}, mergeFrom n k s = (v, true) →
    ∃ j u, j < n ∧ mergeFrom j k s = (u, false) ∧ 2 ^ 32 - 1 < pairSum u ∧
      v = raiseFault (afterExtracts u) .weightOverflow (BitVec.ofNat 16 (k + j)) := by
  induction n with
  | zero => exact fun e => nomatch e
  | succ n ih =>
    intro k s e
    obtain ⟨fits, _⟩ | ⟨tooBig, faults⟩ := merge_cases k s
    · rw [mergeFrom_succ_of_fits fits] at e
      obtain ⟨j, u, hj, before, tooBig, hv⟩ := ih e
      refine ⟨j + 1, u, by omega, (mergeFrom_succ_of_fits fits).trans before, tooBig, ?_⟩
      rw [hv, Nat.add_assoc, Nat.add_comm 1 j]
    · rw [mergeFrom_succ, faults] at e
      cases e
      exact ⟨0, s, by omega, rfl, tooBig, rfl⟩

/-- R104, R163: where the counts do not fit, one of the 255 merges faults: node 510 would hold their sum. -/
theorem mergeFrom_overflows {s : State} (big : 2 ^ 32 - 1 < flooredSum s) :
    ∃ v, mergeFrom 255 0 (startBuild s) = (v, true) := by
  cases e : mergeFrom 255 0 (startBuild s) with
  | mk v faulted =>
    cases faulted with
    | true => exact ⟨v, rfl⟩
    | false =>
      have forest : Forest s 255 v := (forest_startBuild s).mergeFrom 255 (by omega) e
      have total : (v.nfreq 510#9).toNat = flooredSum s := by simpa [weights, forest.top.1] using forest.total
      have := (v.nfreq 510#9).isLt
      omega

/-- R160, R163: what a BUILD of which merge `k` faults leaves: the tree state, and the fault. -/
theorem buildTree_faulted_eq {s u : State} {k : Nat} (merging : Merging k u) (hk : k < 255)
    (h : mergeFrom 255 0 (startBuild s) =
      (raiseFault (afterExtracts u) .weightOverflow (BitVec.ofNat 16 k), true)) :
    buildTree s = { s with NFREQ := u.NFREQ, NLEFT := u.NLEFT, NRIGHT := u.NRIGHT, HEAP := (afterExtracts u).HEAP,
                           HSIZE := BitVec.ofNat 9 (254 - k), MCOUNT := BitVec.ofNat 9 k,
                           ERR := .weightOverflow, ERRINFO := BitVec.ofNat 16 k, PHASE := .fault, BUSY := false } := by
  obtain ⟨frame, draws⟩ := buildTree_frame s
  obtain ⟨_, root, _⟩ := mergeFrom_frame 255 0 (startBuild s)
  obtain ⟨built, _⟩ := buildTree_of_faulted h
  rw [built] at frame draws ⊢
  rw [h] at root
  have hsize : (afterExtracts u).HSIZE = BitVec.ofNat 9 (254 - k) := by
    rw [← merging.size_afterExtracts hk, BitVec.ofNat_toNat, BitVec.setWidth_eq]
  have mcount : (afterExtracts u).MCOUNT = BitVec.ofNat 9 k := by
    rw [← merging.count, BitVec.ofNat_toNat, BitVec.setWidth_eq]
    rfl
  have shape := eq_withTree
    (s := { s with BUSY := false, ERR := .weightOverflow, ERRINFO := BitVec.ofNat 16 k }) frame draws rfl rfl rfl
  rw [root] at shape
  rw [shape, ← hsize, ← mcount]
  rfl

/-- Settles O27: the merges before the fault are a forest, and the one that faults writes no node. -/
theorem buildOverflowFaults : Obligations.BuildOverflowFaults := by
  intro s hp hcount big
  obtain ⟨t, ht⟩ := mergeFrom_overflows big
  obtain ⟨k, u, hk, before, tooBig, rfl⟩ := mergeFrom_faults 255 ht
  rw [Nat.zero_add] at ht
  obtain ⟨built, _⟩ := buildTree_of_faulted ht
  have forest : Forest s k u := by simpa using (forest_startBuild s).mergeFrom k (by omega) before
  have merging : Merging k u := by
    simpa [before] using (mergeFrom_merging k (merging_startBuild hcount) (by omega)).1
  have unwritten : sameNodesFrom k s u :=
    sameNodesFrom_trans (sameNodesFrom_startBuild k s) (by simpa using sameNodesFrom_mergeFrom k before)
  have shape := buildTree_faulted_eq merging hk ht
  rw [built] at shape
  exact ⟨_, u, k, by omega, (exec_build_eq hp).trans (congrArg _ built), before, ⟨tooBig, rfl⟩, shape, unwritten,
    forest.leaves⟩

end Sys2Proof.Machine

/-! SUPPORT. An ASSIGN that meets a leaf that is too deep (42_code_assign.md R112, 60_exceptions.md R161): its walk stops at
the first such leaf in left-first pre-order, and wrote the paths of the leaves before it. -/

namespace Sys2Proof.Machine

/-! ## Left of a path -/

theorem not_leftOf_nil (q : List Bool) : ¬ leftOf q [] := by
  rintro ⟨r, x, y, _, e⟩
  simp at e

/-- A path leaves another to its left at the first edge, or goes the same way there and leaves the rest to its left. -/
theorem leftOf_cons_cases {q p : List Bool} {side : Bool} (h : leftOf q (side :: p)) :
    ∃ q', (q = side :: q' ∧ leftOf q' p) ∨ (side = true ∧ q = false :: q') := by
  obtain ⟨r, x, y, rfl, e⟩ := h
  cases r with
  | nil =>
    cases e
    exact ⟨x, .inr ⟨rfl, rfl⟩⟩
  | cons b r =>
    cases e
    exact ⟨r ++ false :: x, .inl ⟨rfl, r, x, y, rfl, rfl⟩⟩

/-! ## The walk -/

/-- R102: a leaf below the left child of a node is not below its right child. -/
theorem follow_right_ne {s : State} (tree : builtTree s) {h l r : Handle} {path q q' : List Bool} {b : Byte}
    (start : follow s s.ROOT path = some h) (hL : s.child? h false = some l) (hR : s.child? h true = some r)
    (left : follow s l q = some (leafOf b)) : follow s r q' ≠ some (leafOf b) := by
  intro right
  have onSide {d : Handle} {side : Bool} {x : List Bool} (hc : s.child? h side = some d)
      (hx : follow s d x = some (leafOf b)) : follow s s.ROOT (path ++ side :: x) = some (leafOf b) := by
    rw [follow_append, start, Option.bind_some, follow_cons_of_child hc, hx]
  simpa using follow_root_unique tree _ (onSide hL left) (onSide hR right)

/-- R110: a walk that faults writes no byte that is not below its start. -/
theorem walk_tooLong_sameEntry {s : State} (tree : builtTree s) (fuel : Nat) :
    ∀ {h leaf : Handle} {path : List Bool} {t t' : CodeTable}, follow s s.ROOT path = some h →
      walk s fuel h path t = .tooLong leaf t' →
      ∀ b, (∀ q, follow s h q ≠ some (leafOf b)) → t.sameEntry t' b := by
  induction fuel with
  | zero => exact fun _ e => nomatch e
  | succ fuel ih =>
    intro h leaf path t t' start e b hb
    have notBelow {d : Handle} {side : Bool} (hc : s.child? h side = some d) (q : List Bool) :
        follow s d q ≠ some (leafOf b) := fun hq => hb (side :: q) (by rwa [follow_cons_of_child hc])
    obtain ⟨_, _, _, rfl⟩ | ⟨l, r, hL, hR, left | ⟨u, left, right⟩⟩ := walk_tooLong_cases e
    · exact ⟨rfl, rfl⟩
    · exact ih (follow_concat_eq_some_iff.2 ⟨h, start, hL⟩) left b (notBelow hL)
    · obtain ⟨_, othersL⟩ := walk_done tree fuel (follow_concat_eq_some_iff.2 ⟨h, start, hL⟩) left
      have sameL := othersL b (notBelow hL)
      have sameR := ih (follow_concat_eq_some_iff.2 ⟨h, start, hR⟩) right b (notBelow hR)
      exact ⟨sameR.1.trans sameL.1, sameR.2.trans sameL.2⟩

/-- R112: a walk that faults does so at a leaf `q` below its start that is more than 32 edges from the root, and it
entered every leaf to the left of `q` with its path. -/
theorem walk_tooLong_first {s : State} (tree : builtTree s) (fuel : Nat) :
    ∀ {h leaf : Handle} {path : List Bool} {t t' : CodeTable}, follow s s.ROOT path = some h →
      walk s fuel h path t = .tooLong leaf t' →
      ∃ q b, leaf = leafOf b ∧ follow s h q = some (leafOf b) ∧ 32 < (path ++ q).length ∧
        ∀ x c, follow s h x = some (leafOf c) → leftOf x q → t'.Holds c (path ++ x) := by
  induction fuel with
  | zero => exact fun _ e => nomatch e
  | succ fuel ih =>
    intro h leaf path t t' start e
    obtain ⟨ends, deep, rfl, rfl⟩ | ⟨l, r, hL, hR, left | ⟨u, left, right⟩⟩ := walk_tooLong_cases e
    · have byte := (leafOf_setWidth ends).symm
      exact ⟨[], leaf.setWidth 8, byte, congrArg some byte, by simpa using deep,
        fun x _ _ hx => absurd hx (not_leftOf_nil x)⟩
    · obtain ⟨q, b, hleaf, hq, deep, before⟩ := ih (follow_concat_eq_some_iff.2 ⟨h, start, hL⟩) left
      refine ⟨false :: q, b, hleaf, by rwa [follow_cons_of_child hL], by simpa using deep, fun x c hx toLeft => ?_⟩
      obtain ⟨x, ⟨rfl, rest⟩ | ⟨⟨⟩, _⟩⟩ := leftOf_cons_cases toLeft
      rw [follow_cons_of_child hL] at hx
      simpa using before x c hx rest
    · have startR := follow_concat_eq_some_iff.2 ⟨h, start, hR⟩
      obtain ⟨q, b, hleaf, hq, deep, before⟩ := ih startR right
      refine ⟨true :: q, b, hleaf, by rwa [follow_cons_of_child hR], by simpa using deep, fun x c hx toLeft => ?_⟩
      obtain ⟨x, ⟨rfl, rest⟩ | ⟨_, rfl⟩⟩ := leftOf_cons_cases toLeft
      · rw [follow_cons_of_child hR] at hx
        simpa using before x c hx rest
      · rw [follow_cons_of_child hL] at hx
        obtain ⟨entered, _⟩ := walk_done tree fuel (follow_concat_eq_some_iff.2 ⟨h, start, hL⟩) left
        have kept := walk_tooLong_sameEntry tree fuel startR right c fun q' => follow_right_ne tree start hL hR hx
        simpa using (entered c x hx).sameEntry kept

/-! ## ASSIGN -/

/-- R112: the walk of a built tree with a leaf deeper than 32 faults: one that completes finds no such leaf. -/
theorem walkTree_tooLong {s : State} (tree : builtTree s) {p : List Bool} {b : Byte} (path : leafPath s p b)
    (deep : 32 < p.length) (t : CodeTable) : ∃ leaf t', walkTree s t = .tooLong leaf t' := by
  obtain ⟨root, older, _⟩ := id tree
  have ends := walkTree_answers older root t
  cases hw : walkTree s t with
  | tooLong leaf t' => exact ⟨leaf, t', rfl⟩
  | done c =>
    rw [walkTree_eq_walk root] at hw
    obtain ⟨entered, _⟩ := walk_done tree _ (path := []) rfl hw
    exact absurd (entered b p path).fits (Nat.not_le_of_lt deep)
  | noSuchNode | endless =>
    rw [hw] at ends
    exact ends.elim

/-- Settles O31: the walk faults, at the first leaf that is too deep. -/
theorem assignFaultsOnDeepLeaf : Obligations.AssignFaultsOnDeepLeaf := by
  rintro s hp tree ⟨p, b, path, deep⟩
  obtain ⟨leaf, c, hw⟩ := walkTree_tooLong tree path deep (freshTable s.DRAWS)
  have e : run .assign s = .next
      (raiseFault (({ s with DRAWS := s.DRAWS + 1 } : State).withCodeTable c) .codeTooLong (leaf.setWidth 16)) := by
    simp only [run, hw]
    rfl
  rw [walkTree_eq_walk tree.1] at hw
  obtain ⟨q, d, rfl, first, tooDeep, before⟩ := walk_tooLong_first tree _ (path := []) rfl hw
  have info : (leafOf d).setWidth 16 = d.setWidth 16 := BitVec.setWidth_setWidth (by decide)
  refine ⟨_, q, d, (exec_assign_eq_run hp).trans e, first, tooDeep, fun x y hx toLeft => ?_, by rw [info]; rfl⟩
  have entry : c.Holds y x := before x y hx toLeft
  exact ⟨entry.fits, entry.codeIs rfl rfl⟩

end Sys2Proof.Machine

/-! SUPPORT. Reset by the host (70_reset_and_hazards.md R180). -/

namespace Sys2Proof.Machine

/-- R12, R47: on a free port, or during a hold behind words that wait, the step is the host's first action that is no
word. -/
theorem step_of_behind_words {s : State} {ws : List CmdWord} {a : HostAction} {q : List HostAction}
    (ha : ∀ w, a ≠ .write w) (free : ws = [] ∨ s.BUSY = true) (hq : s.HOSTQ = ws.map .write ++ a :: q) :
    step s = hostAct a { s with HOSTQ := ws.map .write ++ q } := by
  have next : nextAction s = some (a, ws.map .write ++ q) := by
    cases hb : s.BUSY with
    | false =>
      obtain rfl : ws = [] := free.resolve_right (by simp [hb])
      exact nextAction_idle hb hq
    | true =>
      simp only [nextAction, hb, if_true, hq]
      exact takeWhileHolding_behind_words ha ws q
  simp only [step, hostStep, next]

/-- Settles O8: the reset is the next action, and it leaves the streams and the words that wait. -/
theorem resetEndsAnyCommand : Obligations.ResetEndsAnyCommand := by
  intro s ws q free hq
  exact ⟨_, step_of_behind_words (by simp) free hq, hasResetValues_toReset _, rfl, rfl, rfl⟩

end Sys2Proof.Machine
